-- ==== Sys2Proof/Word.lean ====
section
/-! DEFINITION. The word types of the CHIP-8 core (spec/00_scope.md R6, R8): bytes, 16-bit words, 12-bit addresses, nibbles
and register indices. No value of this machine is signed (R8). -/

namespace Sys2Proof

/-- An 8-bit byte: a register, a memory cell, a timer (R6). -/
abbrev Byte := BitVec 8

/-- A 16-bit word: an instruction word, PC, I, a return address (R6). -/
abbrev Word := BitVec 16

/-- The 12-bit address field `nnn` (R71). -/
abbrev Addr12 := BitVec 12

/-- A 4-bit field: DRW's row count `n` and the nibbles an encoding ignores (R71). -/
abbrev Nibble := BitVec 4

/-- A register index, the 4-bit field `x` or `y`: every value names an existing register (R20). -/
abbrev Reg := Fin 16

/-- The index of VF, the register that carries the flags (R21). -/
abbrev Reg.vF : Reg := 15

end Sys2Proof
end

