-- ==== Sys2Proof/Config.lean ====
section
/-! DEFINITION. The configuration parameters the spec leaves open (spec/00_scope.md R7), the fixed sizes (R6), and the free
draws that stand for a host whose inputs nobody has said (spec/40_engine.md R100). -/

namespace Sys2Proof

/-- The configuration of one core (R7): the spec names each parameter and its default, "and a model takes each as an
argument of its configuration". A `Config` stands in `State`, no step changes it, and a statement about every state is a
statement about every configuration (log entry 1). -/
structure Config where
  /-- `CLS_PRESENT` (D6): whether `00E0` decodes to CLS. -/
  clsPresent : Bool
  /-- `SHIFT_USES_VY` (D8): whether SHR and SHL shift `V[y]` rather than `V[x]`. -/
  shiftUsesVy : Bool
  /-- `LOADSTORE_INCREMENTS_I` (D9): whether Fx55 and Fx65 move I past the block. -/
  loadStoreIncrementsI : Bool
  /-- `FONT_BASE` (D12): the address of glyph 0. The bound is R7's `FONT_BASE + 80 ≤ 0x200`. -/
  fontBase : Fin 433
  /-- The glyph bytes copied to `FONT_BASE .. FONT_BASE + 79` at startup (R65: "a model should take this table as part of
  its configuration alongside FONT_BASE"). -/
  font : Vector Byte 80
deriving DecidableEq, Repr

/-- The defaults of R7, with the standard font of R65. -/
def Config.standard : Config :=
  { clsPresent := false, shiftUsesVy := false, loadStoreIncrementsI := false, fontBase := 0, font := standardFont }

/-- `MEM_SIZE` (R6). -/
abbrev Config.memSize : Nat := 4096

/-- `PROG_BASE` (R6), the entry point (R57). -/
abbrev Config.progBase : Nat := 0x200

/-- `PROG_MAX` (R6): the longest program that fits. -/
abbrev Config.progMax : Nat := 3584

/-- `STACK_DEPTH` (R6). -/
abbrev Config.stackDepth : Nat := 16

/-- FREE VALUE. `keys_in` of a step the host has said nothing about: R100's "free inputs of each step (draws)", by the
number of the draw (log entry 2). -/
opaque Config.freeKeys : Nat → BitVec 16

/-- FREE VALUE. `quit_in` of a step the host has said nothing about (R100, R107; log entry 2). -/
opaque Config.freeQuit : Nat → Bool

/-- FREE VALUE. `rnd_in` of a step the host has said nothing about (R144, D21: "any value 0..255, and no relation between
two RNDs"; log entry 2). -/
opaque Config.freeRnd : Nat → Byte

end Sys2Proof
end

