-- ==== Sys2Proof/Syntax.lean ====
section
/-! DEFINITION. The instructions of the CHIP-8 core: one constructor per row of spec/opcode_table.json, in the table's order
(spec/30_encoding.md R79). -/

namespace Sys2Proof

/-- A decoded instruction (R79). Every field the word holds is kept, the ignored bits of R76 and R77 too (`u`): R71 extracts
all fields from every word and the handler ignores those it does not use. So an instruction determines its raw word, which
the error report carries (spec/60_exceptions.md R261; log entry 9). -/
inductive Instr where
  /-- `0u E0` CLS, only if `CLS_PRESENT` (R205); `u` is bits 11..8, ignored. -/
  | cls (u : Nibble)
  /-- `0u EE` RET (R173); `u` is bits 11..8, ignored. -/
  | ret (u : Nibble)
  /-- `1nnn` JP addr (R170). -/
  | jpAddr (nnn : Addr12)
  /-- `2nnn` CALL addr (R172). -/
  | callAddr (nnn : Addr12)
  /-- `3xkk` SE Vx, byte (R174). -/
  | seByte (x : Reg) (kk : Byte)
  /-- `4xkk` SNE Vx, byte (R175). -/
  | sneByte (x : Reg) (kk : Byte)
  /-- `5xyu` SE Vx, Vy (R176); `u` is bits 3..0, ignored. -/
  | seReg (x y : Reg) (u : Nibble)
  /-- `6xkk` LD Vx, byte (R131). -/
  | ldByte (x : Reg) (kk : Byte)
  /-- `7xkk` ADD Vx, byte (R132). -/
  | addByte (x : Reg) (kk : Byte)
  /-- `8xy0` LD Vx, Vy (R133). -/
  | ldReg (x y : Reg)
  /-- `8xy1` OR Vx, Vy (R134). -/
  | orReg (x y : Reg)
  /-- `8xy2` AND Vx, Vy (R135). -/
  | andReg (x y : Reg)
  /-- `8xy3` XOR Vx, Vy (R136). -/
  | xorReg (x y : Reg)
  /-- `8xy4` ADD Vx, Vy (R137). -/
  | addReg (x y : Reg)
  /-- `8xy5` SUB Vx, Vy (R138). -/
  | subReg (x y : Reg)
  /-- `8xy6` SHR Vx, Vy (R139). -/
  | shrReg (x y : Reg)
  /-- `8xy7` SUBN Vx, Vy (R145). -/
  | subnReg (x y : Reg)
  /-- `8xyE` SHL Vx, Vy (R140). -/
  | shlReg (x y : Reg)
  /-- `9xyu` SNE Vx, Vy (R177); `u` is bits 3..0, ignored. -/
  | sneReg (x y : Reg) (u : Nibble)
  /-- `Annn` LD I, addr (R146). -/
  | ldI (nnn : Addr12)
  /-- `Bnnn` JP V0, addr (R171). -/
  | jpV0 (nnn : Addr12)
  /-- `Cxkk` RND Vx, byte (R144). -/
  | rnd (x : Reg) (kk : Byte)
  /-- `Dxyn` DRW Vx, Vy, nibble (R200). -/
  | drw (x y : Reg) (n : Nibble)
  /-- `Ex9E` SKP Vx (R178). -/
  | skp (x : Reg)
  /-- `ExA1` SKNP Vx (R179). -/
  | sknp (x : Reg)
  /-- `Fx07` LD Vx, DT (R233). -/
  | ldVxDT (x : Reg)
  /-- `Fx0A` LD Vx, K (R241). -/
  | ldVxK (x : Reg)
  /-- `Fx15` LD DT, Vx (R234). -/
  | ldDTVx (x : Reg)
  /-- `Fx18` LD ST, Vx (R235). -/
  | ldSTVx (x : Reg)
  /-- `Fx1E` ADD I, Vx (R147). -/
  | addIVx (x : Reg)
  /-- `Fx29` LD F, Vx (R206). -/
  | ldFVx (x : Reg)
  /-- `Fx33` LD B, Vx (R141). -/
  | ldBVx (x : Reg)
  /-- `Fx55` LD [I], Vx (R142). -/
  | ldMemVx (x : Reg)
  /-- `Fx65` LD Vx, [I] (R143). -/
  | ldVxMem (x : Reg)
deriving DecidableEq, Repr

end Sys2Proof
end

