-- ==== Sys2Proof/WellFormed.lean ====
section
/-! DEFINITION. Which instructions a core of a given configuration admits (spec/30_encoding.md R79: "With the default
configuration, 33 instructions are admitted; with CLS_PRESENT = true, 34"). -/

namespace Sys2Proof

/-- The one check an instruction needs: CLS exists only under `CLS_PRESENT` (R77, R205). Every other bound of the encoding is
the type of a field (a 4-bit register index, an 8-bit immediate, a 12-bit address). -/
def Instr.wellFormed (cfg : Config) : Instr → Bool
  | .cls _ => cfg.clsPresent
  | .ret _ | .jpAddr _ | .callAddr _ | .seByte _ _ | .sneByte _ _ | .seReg _ _ _ | .ldByte _ _ | .addByte _ _
  | .ldReg _ _ | .orReg _ _ | .andReg _ _ | .xorReg _ _ | .addReg _ _ | .subReg _ _ | .shrReg _ _ | .subnReg _ _
  | .shlReg _ _ | .sneReg _ _ _ | .ldI _ | .jpV0 _ | .rnd _ _ | .drw _ _ _ | .skp _ | .sknp _ | .ldVxDT _ | .ldVxK _
  | .ldDTVx _ | .ldSTVx _ | .addIVx _ | .ldFVx _ | .ldBVx _ | .ldMemVx _ | .ldVxMem _ => true

end Sys2Proof
end

