-- ==== Sys2Proof/Decode.lean ====
section
/-! DEFINITION. Decoding and encoding (spec/30_encoding.md R70 to R85): the two-level dispatch of R82, total on any bytes and
rejecting by name, and after it the opcode map of R79 with the encoder written from it. -/

namespace Sys2Proof

/-- `w[hi:lo]` as a natural number (R8). -/
def Word.field (w : Word) (hi lo : Nat) : Nat := w.toNat / 2 ^ lo % 2 ^ (hi + 1 - lo)

/-- `c`, the opcode class (R71). -/
def Word.cls (w : Word) : Nat := Word.field w 15 12
/-- `x` (R71). -/
def Word.x (w : Word) : Reg := Fin.ofNat 16 (Word.field w 11 8)
/-- `y` (R71). -/
def Word.y (w : Word) : Reg := Fin.ofNat 16 (Word.field w 7 4)
/-- `n` (R71). -/
def Word.n (w : Word) : Nat := Word.field w 3 0
/-- `kk` (R71). -/
def Word.kk (w : Word) : Nat := Word.field w 7 0
/-- `nnn` (R71). -/
def Word.nnn (w : Word) : Addr12 := BitVec.ofNat 12 (Word.field w 11 0)
/-- `kk` as an immediate byte (R73). -/
def Word.imm (w : Word) : Byte := BitVec.ofNat 8 (Word.kk w)
/-- Bits 11..8 as a nibble nobody reads (R77). -/
def Word.ignoredX (w : Word) : Nibble := BitVec.ofNat 4 (Word.field w 11 8)
/-- Bits 3..0 as a nibble: DRW's row count (R73), or ignored (R76). -/
def Word.nibble (w : Word) : Nibble := BitVec.ofNat 4 (Word.n w)

/-- The words CLS decodes from where it exists: family 0 with `kk` = 0xE0 (R77). -/
def Word.isCls (w : Word) : Bool := Word.cls w == 0 && Word.kk w == 0xE0

/-- Why bytes are no instruction. -/
inductive DecodeReject where
  /-- The word has no handler: R83's DecodeError. -/
  | illegal (w : Word)
  /-- Fewer than the two bytes every instruction has (R70). -/
  | truncated
deriving DecidableEq, Repr

/-- Family 0, dispatched on `kk` alone (R77). -/
def decodeFamily0 (cfg : Config) (w : Word) : Except DecodeReject Instr :=
  match Word.kk w with
  | 0xEE => .ok (.ret (Word.ignoredX w))
  | 0xE0 => if cfg.clsPresent then .ok (.cls (Word.ignoredX w)) else .error (.illegal w)
  | _ => .error (.illegal w)

/-- Family 8, dispatched on `n` (R78). -/
def decodeFamily8 (w : Word) : Except DecodeReject Instr :=
  match Word.n w with
  | 0x0 => .ok (.ldReg (Word.x w) (Word.y w))
  | 0x1 => .ok (.orReg (Word.x w) (Word.y w))
  | 0x2 => .ok (.andReg (Word.x w) (Word.y w))
  | 0x3 => .ok (.xorReg (Word.x w) (Word.y w))
  | 0x4 => .ok (.addReg (Word.x w) (Word.y w))
  | 0x5 => .ok (.subReg (Word.x w) (Word.y w))
  | 0x6 => .ok (.shrReg (Word.x w) (Word.y w))
  | 0x7 => .ok (.subnReg (Word.x w) (Word.y w))
  | 0xE => .ok (.shlReg (Word.x w) (Word.y w))
  | _ => .error (.illegal w)

/-- Family E, dispatched on `kk` (R80). -/
def decodeFamilyE (w : Word) : Except DecodeReject Instr :=
  match Word.kk w with
  | 0x9E => .ok (.skp (Word.x w))
  | 0xA1 => .ok (.sknp (Word.x w))
  | _ => .error (.illegal w)

/-- Family F, dispatched on `kk` (R81). -/
def decodeFamilyF (w : Word) : Except DecodeReject Instr :=
  match Word.kk w with
  | 0x07 => .ok (.ldVxDT (Word.x w))
  | 0x0A => .ok (.ldVxK (Word.x w))
  | 0x15 => .ok (.ldDTVx (Word.x w))
  | 0x18 => .ok (.ldSTVx (Word.x w))
  | 0x1E => .ok (.addIVx (Word.x w))
  | 0x29 => .ok (.ldFVx (Word.x w))
  | 0x33 => .ok (.ldBVx (Word.x w))
  | 0x55 => .ok (.ldMemVx (Word.x w))
  | 0x65 => .ok (.ldVxMem (Word.x w))
  | _ => .error (.illegal w)

/-- The decode function of R82: the first level on the opcode class, the second in families 0, 8, E and F (R75, R76). It reads
no state but `CLS_PRESENT`. -/
def decode (cfg : Config) (w : Word) : Except DecodeReject Instr :=
  match Word.cls w with
  | 0x0 => decodeFamily0 cfg w
  | 0x1 => .ok (.jpAddr (Word.nnn w))
  | 0x2 => .ok (.callAddr (Word.nnn w))
  | 0x3 => .ok (.seByte (Word.x w) (Word.imm w))
  | 0x4 => .ok (.sneByte (Word.x w) (Word.imm w))
  | 0x5 => .ok (.seReg (Word.x w) (Word.y w) (Word.nibble w))
  | 0x6 => .ok (.ldByte (Word.x w) (Word.imm w))
  | 0x7 => .ok (.addByte (Word.x w) (Word.imm w))
  | 0x8 => decodeFamily8 w
  | 0x9 => .ok (.sneReg (Word.x w) (Word.y w) (Word.nibble w))
  | 0xA => .ok (.ldI (Word.nnn w))
  | 0xB => .ok (.jpV0 (Word.nnn w))
  | 0xC => .ok (.rnd (Word.x w) (Word.imm w))
  | 0xD => .ok (.drw (Word.x w) (Word.y w) (Word.nibble w))
  | 0xE => decodeFamilyE w
  | 0xF => decodeFamilyF w
  | _ => .error (.illegal w)

/-- The 16-bit word of two bytes, the first one most significant (R53, R70). -/
def wordOfBytes (hi lo : Byte) : Word := BitVec.ofNat 16 (hi.toNat * 256 + lo.toNat)

/-- The byte at the word's own address (R53). -/
def Word.hiByte (w : Word) : Byte := BitVec.ofNat 8 (w.toNat / 256)

/-- The byte at the address after it (R53). -/
def Word.loByte (w : Word) : Byte := BitVec.ofNat 8 w.toNat

/-- Decoding from a stream of bytes: the instruction its first two bytes hold, and the bytes after them (R70). -/
def decodeBytes (cfg : Config) : List Byte → Except DecodeReject (Instr × List Byte)
  | hi :: lo :: rest =>
    match decode cfg (wordOfBytes hi lo) with
    | .ok i => .ok (i, rest)
    | .error r => .error r
  | [_] => .error .truncated
  | [] => .error .truncated

/-- Bits `hi .. lo` of a word fixed at a value, as spec/opcode_table.json lists them. -/
structure FixedField where
  hi : Nat
  lo : Nat
  value : Nat
deriving DecidableEq, Repr

/-- One row of the opcode map of R79: the fields its pattern fixes. -/
structure OpRow where
  fixed : List FixedField
deriving DecidableEq, Repr

/-- A family that holds one instruction (R76): only the opcode class is fixed. -/
def OpRow.family (c : Nat) : OpRow := ⟨[⟨15, 12, c⟩]⟩

/-- A row of family 8, selected by `n` (R78). -/
def OpRow.byNibble (c n : Nat) : OpRow := ⟨[⟨15, 12, c⟩, ⟨3, 0, n⟩]⟩

/-- A row of family 0, E or F, selected by `kk` (R77, R80, R81). -/
def OpRow.byByte (c kk : Nat) : OpRow := ⟨[⟨15, 12, c⟩, ⟨7, 0, kk⟩]⟩

/-- A word belongs to a row: every fixed field has the row's value. -/
def OpRow.matchesWord (r : OpRow) (w : Word) : Bool := r.fixed.all fun f => Word.field w f.hi f.lo == f.value

/-- The row's fixed bits as a number, its operand bits 0. -/
def OpRow.pattern (r : OpRow) : Nat := (r.fixed.map fun f => f.value * 2 ^ f.lo).sum

/-- Two rows fix the same bits at different values, so that no word belongs to both (R85, "unambiguous"). -/
def OpRow.disjoint (a b : OpRow) : Bool :=
  a.fixed.any fun f => b.fixed.any fun g => f.hi == g.hi && f.lo == g.lo && f.value != g.value

/-- The opcode map of R79, kept in this one place ("keep the patterns in one generated table"): the row of each
instruction, its fixed fields those of spec/opcode_table.json. -/
def Instr.opRow : Instr → OpRow
  | .cls _ => .byByte 0x0 0xE0
  | .ret _ => .byByte 0x0 0xEE
  | .jpAddr _ => .family 0x1
  | .callAddr _ => .family 0x2
  | .seByte _ _ => .family 0x3
  | .sneByte _ _ => .family 0x4
  | .seReg _ _ _ => .family 0x5
  | .ldByte _ _ => .family 0x6
  | .addByte _ _ => .family 0x7
  | .ldReg _ _ => .byNibble 0x8 0x0
  | .orReg _ _ => .byNibble 0x8 0x1
  | .andReg _ _ => .byNibble 0x8 0x2
  | .xorReg _ _ => .byNibble 0x8 0x3
  | .addReg _ _ => .byNibble 0x8 0x4
  | .subReg _ _ => .byNibble 0x8 0x5
  | .shrReg _ _ => .byNibble 0x8 0x6
  | .subnReg _ _ => .byNibble 0x8 0x7
  | .shlReg _ _ => .byNibble 0x8 0xE
  | .sneReg _ _ _ => .family 0x9
  | .ldI _ => .family 0xA
  | .jpV0 _ => .family 0xB
  | .rnd _ _ => .family 0xC
  | .drw _ _ _ => .family 0xD
  | .skp _ => .byByte 0xE 0x9E
  | .sknp _ => .byByte 0xE 0xA1
  | .ldVxDT _ => .byByte 0xF 0x07
  | .ldVxK _ => .byByte 0xF 0x0A
  | .ldDTVx _ => .byByte 0xF 0x15
  | .ldSTVx _ => .byByte 0xF 0x18
  | .addIVx _ => .byByte 0xF 0x1E
  | .ldFVx _ => .byByte 0xF 0x29
  | .ldBVx _ => .byByte 0xF 0x33
  | .ldMemVx _ => .byByte 0xF 0x55
  | .ldVxMem _ => .byByte 0xF 0x65

/-- The operand bits of an instruction, each field at the place its format gives it (R71, R72). -/
def Instr.operandBits : Instr → Nat
  | .cls u | .ret u => u.toNat * 0x100
  | .jpAddr nnn | .callAddr nnn | .ldI nnn | .jpV0 nnn => nnn.toNat
  | .seByte x kk | .sneByte x kk | .ldByte x kk | .addByte x kk | .rnd x kk => x.val * 0x100 + kk.toNat
  | .seReg x y u | .sneReg x y u | .drw x y u => x.val * 0x100 + y.val * 0x10 + u.toNat
  | .ldReg x y | .orReg x y | .andReg x y | .xorReg x y | .addReg x y | .subReg x y | .shrReg x y | .subnReg x y
  | .shlReg x y => x.val * 0x100 + y.val * 0x10
  | .skp x | .sknp x | .ldVxDT x | .ldVxK x | .ldDTVx x | .ldSTVx x | .addIVx x | .ldFVx x | .ldBVx x | .ldMemVx x
  | .ldVxMem x => x.val * 0x100

/-- The word of an instruction (R79): its row's fixed bits and its operands, which never overlap. -/
def encode (i : Instr) : Word := BitVec.ofNat 16 (i.opRow.pattern + i.operandBits)

/-- One instruction of each row of R79, in the table's order, operands 0. -/
def opcodeRows : List Instr :=
  [.cls 0, .ret 0, .jpAddr 0, .callAddr 0, .seByte 0 0, .sneByte 0 0, .seReg 0 0 0, .ldByte 0 0, .addByte 0 0,
   .ldReg 0 0, .orReg 0 0, .andReg 0 0, .xorReg 0 0, .addReg 0 0, .subReg 0 0, .shrReg 0 0, .subnReg 0 0] ++
  [.shlReg 0 0, .sneReg 0 0 0, .ldI 0, .jpV0 0, .rnd 0 0, .drw 0 0 0, .skp 0, .sknp 0, .ldVxDT 0, .ldVxK 0,
   .ldDTVx 0, .ldSTVx 0, .addIVx 0, .ldFVx 0, .ldBVx 0, .ldMemVx 0, .ldVxMem 0]

/-- The opcode map of R79 as a list of rows. -/
def opcodeTable : List OpRow := opcodeRows.map Instr.opRow

/-- The configuration in which every row of the opcode table is admitted (R79: 34 with `CLS_PRESENT`). -/
def Config.allRows : Config := { Config.standard with clsPresent := true }

/-- The instruction the decoder reads from a word of the opcode table of which the table gives `nbits` bits; every higher bit
is 0. The word lies in memory most significant byte first (R53). The table lists CLS, so the decoder is that of the
configuration that has it (log entry 8). -/
def decodeTableWord (nbits w : Nat) : Option Instr :=
  let word : Word := BitVec.ofNat 16 (w % 2 ^ nbits)
  match decodeBytes Config.allRows [Word.hiByte word, Word.loByte word] with
  | .ok (i, _) => some i
  | .error _ => none

end Sys2Proof
end

