-- ==== Sys2Proof/Machine/State.lean ====
section
/-! DEFINITION. The state of the CHIP-8 core as plain data (spec/10_state.md), the reasons a step can stop, and the state at
startup (spec/70_reset_and_hazards.md R290, R291). -/

namespace Sys2Proof.Machine

/-- Memory (spec/20_memory.md R50): the bytes that differ from the startup contents, as (address, byte) cells in rising order.
`Memory.wf` in Machine/Memory.lean is the canonical form. -/
abbrev Memory := List Host.Cell

/-- The display bitmap `Disp` (R29): 32 rows of 64 one-bit pixels, `true` = set. -/
abbrev Display := Vector (Vector Bool 64) 32

/-- The sub-kinds of a BoundsError (spec/60_exceptions.md R261). -/
inductive BoundsKind where
  /-- FETCH: the fetch at PC ≥ 0xFFF (R102). -/
  | fetch
  /-- MEM: an access through I past the end of memory (R52). -/
  | mem
  /-- STACK_OVERFLOW: CALL with 16 calls outstanding (R172). -/
  | stackOverflow
  /-- STACK_UNDERFLOW: RET with none (R173). -/
  | stackUnderflow
  /-- KEY_INDEX: SKP or SKNP with V[x] > 15 (R178, R179). -/
  | keyIndex
  /-- REG_RANGE: a register block past VF; no word raises it (R152). -/
  | regRange
deriving DecidableEq, Repr

/-- The error record of a fatal error (R33, R261). -/
inductive ErrorRecord where
  /-- DecodeError (R83, R103): the address and the word that has no handler. -/
  | decodeError (pc word : Word)
  /-- BoundsError (R52, R261): the sub-kind, the address of the instruction, its word (none for FETCH, R263), and the
  offending address, SP, register value or register number. -/
  | boundsError (kind : BoundsKind) (pc : Word) (word : Option Word) (info : Nat)
deriving DecidableEq, Repr

/-- Why the core has halted (R33). -/
inductive HaltReason where
  /-- Quit was observed (R107, R268): the normal end. -/
  | quit
  /-- A fatal error (R260, R262). -/
  | error (e : ErrorRecord)
deriving DecidableEq, Repr

/-- The engine's execution-progress state (R33). -/
inductive Mode where
  /-- The next step is an outer cycle (R101). -/
  | running
  /-- An Fx0A at PC found no key: the next step is a wait iteration (R243). -/
  | awaitingKey (x : Reg)
  /-- Terminal: no step leaves it (R108). -/
  | halted (r : HaltReason)
deriving DecidableEq, Repr

/-- The host's inputs to one step (R100). -/
structure HostInput where
  /-- `keys_in`: bit k = key k pressed. -/
  keys : BitVec 16
  /-- `quit_in`. -/
  quit : Bool
  /-- `rnd_in`, consumed only by RND. -/
  rnd : Byte
deriving DecidableEq, Repr

/-- The state of the core. The first twelve fields after the configuration are the spec's `State` (spec/10_state.md); the
rest is the boundary with the host: the outputs of the step just taken (R36) and the inputs of the coming ones (R100). -/
structure State where
  /-- The configuration (R7): fixed, no step changes it. -/
  cfg : Config
  /-- `Mem`, 4096 bytes (R50). -/
  mem : Memory
  /-- `V[0..15]` (R20). -/
  v : Vector Byte 16
  /-- `I`, the index register (R24). -/
  i : Word
  /-- `PC` (R22). -/
  pc : Word
  /-- `stack[0..15]`, return addresses (R25). -/
  stack : Vector Word 16
  /-- `SP`: how many slots are in use, 0..16 (R26). -/
  sp : Fin 17
  /-- `DT`, the delay timer (R27). -/
  dt : Byte
  /-- `ST`, the sound timer (R28). -/
  st : Byte
  /-- `Disp` (R29), also the output `fb_out` (R207). -/
  disp : Display
  /-- `dirty` (R30). -/
  dirty : Bool
  /-- `Key[0..15]`, the key latch, bit k = key k (R31). -/
  key : BitVec 16
  /-- `mode` (R33). -/
  mode : Mode
  /-- OUTPUT of the step just taken: `present_req` (R36, R106). Nothing in the core reads it (log entry 4). -/
  presentReq : Bool
  /-- OUTPUT of the step just taken: `sound_req` (R36, R232). Nothing in the core reads it (log entry 4). -/
  soundReq : Bool
  /-- INPUT of the next step: `keys_in` (R100). -/
  keysIn : BitVec 16
  /-- INPUT of the next step: `quit_in` (R100), sticky. -/
  quitIn : Bool
  /-- INPUT of the next step: `rnd_in` (R100). -/
  rndIn : Byte
  /-- THE MODEL'S OWN. What the host will present at the steps after the next one, soonest first (log entry 2). -/
  hostQueue : List HostInput
  /-- THE MODEL'S OWN. How many free draws have been made since `hostQueue` ran out (log entry 2). -/
  drawCount : Nat
deriving DecidableEq, Repr

/-- Why the machine has no next state. Both are raised by `step` alone, when the core has already halted: R108, "the engine
has no step". Safe: no state is claimed where the hardware has none. -/
inductive Fault where
  /-- Raised by `step` in `Halted(DecodeError …)` or `Halted(BoundsError …)`: the run has failed (R264, "a model should treat
  every fault halt as a fault"). Safe. -/
  | error (e : ErrorRecord)
  /-- Raised by `step` in `Halted(Quit)`: the run has ended (R268). Safe. -/
  | quit
deriving DecidableEq, Repr

/-- What the model does not run. -/
inductive Refusal where
  /-- Raised by an arm of `exec` for an instruction with no meaning yet; no arm does. Safe. -/
  | notModelled (mnemonic : String)
  /-- LoadError (R269, R293), raised by `loadProgram` for a program of more than 3584 bytes: "no step is ever taken". Safe. -/
  | loadError (length : Nat)
deriving DecidableEq, Repr

/-- The result of an instruction or a step. -/
abbrev Result := Host.Outcome State Fault Refusal

/-- The state of a core of configuration `cfg` at startup (R290, R291), before a program is loaded (R293): memory as it is
at startup, with nothing listed; every other piece of state 0; PC at 0x200; Running. -/
def State.startup (cfg : Config) : State :=
  { cfg := cfg
    mem := []
    v := Vector.replicate 16 0
    i := 0
    pc := 0x200
    stack := Vector.replicate 16 0
    sp := 0
    dt := 0
    st := 0
    disp := Vector.replicate 32 (Vector.replicate 64 false)
    dirty := false
    key := 0
    mode := .running
    presentReq := false
    soundReq := false
    keysIn := 0
    quitIn := false
    rndIn := 0
    hostQueue := []
    drawCount := 0 }

/-- The machine right after reset, that is at startup (R292: there is no other reset), in the default configuration of R7.
The input fields are the model's choice (log entry 3). -/
def State.reset : State := State.startup Config.standard

end Sys2Proof.Machine
end

