-- ==== Sys2Proof/Machine/Memory.lean ====
section
/-! DEFINITION. The 4096-byte memory (spec/20_memory.md): what an unlisted address reads as, the canonical form, reading and
writing one byte. -/

namespace Sys2Proof.Machine

/-- What an address reads as that nothing has written: the contents at startup (R57, R65), the font at
`FONT_BASE .. FONT_BASE + 79` and 0 elsewhere. -/
def initialByte (cfg : Config) (a : Nat) : Byte :=
  if cfg.fontBase.val ≤ a then cfg.font[a - cfg.fontBase.val]?.getD 0 else 0

/-- The byte a cell list gives an address, if it lists one. -/
def Memory.lookup : Memory → Nat → Option Byte
  | [], _ => none
  | (a, b) :: rest, a' => if a = a' then some b else Memory.lookup rest a'

/-- `Mem[a]` (R9): the listed byte, else the byte at startup. -/
def Memory.read (cfg : Config) (m : Memory) (a : Nat) : Byte := (Memory.lookup m a).getD (initialByte cfg a)

/-- Put a cell at its place in the rising order. -/
def Memory.insert (a : Nat) (b : Byte) : Memory → Memory
  | [] => [(a, b)]
  | c :: rest => if a < c.1 then (a, b) :: c :: rest else c :: Memory.insert a b rest

/-- The memory after `Mem[a] <- b`: a byte equal to what the address reads as unlisted is not listed. -/
def Memory.write (cfg : Config) (m : Memory) (a : Nat) (b : Byte) : Memory :=
  let others := m.filter (fun c => c.1 != a)
  if b = initialByte cfg a then others else Memory.insert a b others

/-- The canonical form: addresses below 4096, strictly rising, and no cell that says what the address reads as anyway. -/
abbrev Memory.wf (cfg : Config) (m : Memory) : Prop :=
  List.Pairwise (fun c d => c.1 < d.1) m ∧ ∀ c ∈ m, c.1 < Config.memSize ∧ c.2 ≠ initialByte cfg c.1

end Sys2Proof.Machine
end

