-- ==== Sys2Proof/Machine/Ops.lean ====
section
/-! DEFINITION. The named operations of the core: registers, PC, memory, stack, timers, latch, and the entry into `Halted`
that a fatal error takes (spec/00_scope.md R9 to R11; spec/60_exceptions.md R262). -/

namespace Sys2Proof.Machine

/-! ### Registers and PC -/

/-- `V[x]` (R9). -/
def State.reg (s : State) (x : Reg) : Byte := s.v[x]

/-- `V[x] <- b` (R9). -/
def State.setReg (s : State) (x : Reg) (b : Byte) : State := { s with v := s.v.set x b }

/-- `I <- w` (R24). -/
def State.setI (s : State) (w : Word) : State := { s with i := w }

/-- `PC <- target` (R9). -/
def State.setPc (s : State) (target : Word) : State := { s with pc := target }

/-- `PC <- PC + 2`, the advance of every instruction that is no jump, call, return or taken skip (R104). -/
def State.advance (s : State) : State := s.setPc (s.pc + 2)

/-- The advance of a skip instruction (R104): 4 when its condition holds, else 2. -/
def State.skipIf (s : State) (condition : Bool) : State := s.setPc (s.pc + if condition then 4 else 2)

/-! ### Memory -/

/-- `Mem[a]`. -/
def State.readByte (s : State) (a : Nat) : Byte := Memory.read s.cfg s.mem a

/-- `MemWrite(a, 1, b)` after its range check (R10). -/
def State.writeByte (s : State) (a : Nat) (b : Byte) : State := { s with mem := Memory.write s.cfg s.mem a b }

/-- The n bytes at `a`, ascending (R10, R53). -/
def State.readBytes (s : State) (a : Nat) : Nat → List Byte
  | 0 => []
  | n + 1 => s.readByte a :: State.readBytes s (a + 1) n

/-- Single-byte writes at `a`, `a + 1`, …, in that order (R53). -/
def State.writeBytes (s : State) (a : Nat) : List Byte → State
  | [] => s
  | b :: rest => State.writeBytes (s.writeByte a b) (a + 1) rest

/-- `CheckRange(a, n)` (R10, R51, R52): the lowest address of `a .. a + n - 1` that is not below `MEM_SIZE`, if there is one.
Addresses are natural numbers and never wrap; a range of no bytes is never out of range (R204). -/
def rangeError (a n : Nat) : Option Nat :=
  if n = 0 ∨ a + n ≤ Config.memSize then none else some (max a Config.memSize)

/-! ### Halting -/

/-- `mode <- Halted(r)`, and nothing else (R107, R262). -/
def State.halt (s : State) (r : HaltReason) : State := { s with mode := .halted r }

/-- A raised error (R11, R262): "the only effect is that the core enters Halted(...) with the error record". The shared
exception entry of this machine: no state is saved and control goes nowhere. -/
def State.raise (s : State) (e : ErrorRecord) : Result := .next (s.halt (.error e))

/-- `raise BoundsError(kind, info)` by the handler of instruction `i` (R11): the record takes the address of the
instruction, which PC still holds (R22), and its raw word (R261). -/
def State.raiseBounds (s : State) (i : Instr) (kind : BoundsKind) (info : Nat) : Result :=
  s.raise (.boundsError kind s.pc (some (encode i)) info)

/-- The cause code of an error (R261). -/
def ErrorRecord.code : ErrorRecord → Nat
  | .decodeError _ _ => 1
  | .boundsError .fetch _ _ _ => 2
  | .boundsError .mem _ _ _ => 3
  | .boundsError .stackOverflow _ _ _ => 4
  | .boundsError .stackUnderflow _ _ _ => 5
  | .boundsError .keyIndex _ _ _ => 6
  | .boundsError .regRange _ _ _ => 7

/-- The output `halt_out` (R100, R263): the record once the core has halted. -/
def State.haltOut (s : State) : Option HaltReason :=
  match s.mode with
  | .halted r => some r
  | .running | .awaitingKey _ => none

/-! ### Stack -/

/-- CALL's push (R172), for SP < 16: `stack[SP] <- ret; SP <- SP + 1`. -/
def State.push (s : State) (ret : Word) (h : s.sp.val < Config.stackDepth) : State :=
  { s with stack := s.stack.set s.sp.val ret h, sp := ⟨s.sp.val + 1, Nat.succ_lt_succ h⟩ }

/-- RET's pop (R173), for SP ≥ 1: `SP <- SP - 1; PC <- stack[SP]`. The slot keeps its value (R25). -/
def State.popToPc (s : State) (h : 0 < s.sp.val) : State :=
  { s with
    pc := s.stack[s.sp.val - 1]'(by have := s.sp.isLt; omega)
    sp := ⟨s.sp.val - 1, by have := s.sp.isLt; omega⟩ }

/-! ### Timers, display and key latch -/

/-- `DT <- b` (R234). -/
def State.setDT (s : State) (b : Byte) : State := { s with dt := b }

/-- `ST <- b` (R235). -/
def State.setST (s : State) (b : Byte) : State := { s with st := b }

/-- A new bitmap, marked dirty (R30, R203). -/
def State.setDisplay (s : State) (d : Display) : State := { s with disp := d, dirty := true }

/-- `Disp[r][c]` (R9, R29). -/
def State.pixel (s : State) (r : Fin 32) (c : Fin 64) : Bool := s.disp[r][c]

/-- `Key[k] == 1` (R31). -/
def State.keyDown (s : State) (k : Fin 16) : Bool := s.key.getLsbD k.val

/-- The key refresh `Key <- keys_in`, all 16 bits at once (R240). -/
def State.refreshKeys (s : State) : State := { s with key := s.keysIn }

/-- `mode <- AwaitingKey(x)` (R241). -/
def State.awaitKey (s : State) (x : Reg) : State := { s with mode := .awaitingKey x }

/-- `mode <- Running` (R243). -/
def State.resume (s : State) : State := { s with mode := .running }

end Sys2Proof.Machine
end

