-- ==== Sys2Proof/Machine/Flags.lean ====
section
/-! DEFINITION. The flag computations (spec/10_state.md R21; spec/41_alu.md R130, R151): each is a function of the operands
before the instruction, and VF is written last. -/

namespace Sys2Proof.Machine

/-- A flag as VF holds it: 1 or 0 (R137). -/
def flagByte (f : Bool) : Byte := if f then 1 else 0

/-- Carry of `a + b`: "the 9-bit sum exceeds 255" (R137). -/
def carryOut (a b : Byte) : Bool := decide (255 < a.toNat + b.toNat)

/-- No borrow in `a - b`: "minuend ≥ subtrahend" (R138). -/
def noBorrow (a b : Byte) : Bool := decide (b.toNat ≤ a.toNat)

/-- The bit a right shift moves out, `a[0]` (R139). -/
def lowBit (a : Byte) : Bool := a.getLsbD 0

/-- The bit a left shift moves out, `a[7]` (R140). -/
def highBit (a : Byte) : Bool := a.getLsbD 7

/-- `V[0xF] <- flag` (R21). -/
def State.setFlag (s : State) (f : Bool) : State := s.setReg Reg.vF (flagByte f)

/-- The result to V[x], then the flag to VF (R130): for x = F the flag wins. -/
def State.setResultFlag (s : State) (x : Reg) (result : Byte) (f : Bool) : State := (s.setReg x result).setFlag f

end Sys2Proof.Machine
end

