-- ==== Sys2Proof/Machine/Operands.lean ====
section
/-! DEFINITION. The operand forms of the instructions: the shift source, the register block, the BCD digits, the glyph address,
the key index and the key choice. -/

namespace Sys2Proof.Machine

/-- `zext_16(nnn)` (R73). -/
def zextAddr (nnn : Addr12) : Word := nnn.setWidth 16

/-- A byte zero-extended to 16 bits (R8). -/
def zextByte (b : Byte) : Word := b.setWidth 16

/-- The value a shift works on (R139, R140): `V[y]` under `SHIFT_USES_VY`, else `V[x]`. -/
def State.shiftSource (s : State) (x y : Reg) : Byte := if s.cfg.shiftUsesVy then s.reg y else s.reg x

/-- The base address in I, as the natural number addresses are computed in (R51). -/
def State.base (s : State) : Nat := s.i.toNat

/-- How many registers `V0 .. Vx` is (R142, R143): `x + 1`. -/
def blockLength (x : Reg) : Nat := x.val + 1

/-- The REG_RANGE check of a block instruction (R152, R261): `x + 1 > 16`. "A model may omit the check or keep it as dead
code": it is kept. -/
def blockPastVF (x : Reg) : Bool := decide (16 < blockLength x)

/-- The bytes of `V0 .. Vx`, in that order (R142). -/
def State.regBlock (s : State) (x : Reg) : List Byte := s.v.toList.take (blockLength x)

/-- `for i in 0 .. x: V[i] <- Mem[a + i]` (R143): registers above x are unchanged. -/
def State.loadBlock (s : State) (a : Nat) (x : Reg) : State :=
  { s with v := Vector.ofFn fun j : Fin 16 => if j.val ≤ x.val then s.readByte (a + j.val) else s.v[j] }

/-- I after a block access (R142, R143): past the block under `LOADSTORE_INCREMENTS_I`, else unchanged. -/
def State.bumpI (s : State) (x : Reg) : State :=
  if s.cfg.loadStoreIncrementsI then s.setI (s.i + BitVec.ofNat 16 (blockLength x)) else s

/-- The hundreds, tens and units digits of a byte (R141). -/
def bcdDigits (b : Byte) : List Byte :=
  [BitVec.ofNat 8 (b.toNat / 100), BitVec.ofNat 8 (b.toNat / 10 % 10), BitVec.ofNat 8 (b.toNat % 10)]

/-- `(FONT_BASE + 5 * digit) mod 2^16` (R206), the digit not masked (D13). -/
def glyphAddress (cfg : Config) (digit : Byte) : Word := BitVec.ofNat 16 (cfg.fontBase.val + 5 * digit.toNat)

/-- The key a register names (R178, R179): none when it is above 0xF. -/
def keyIndex (b : Byte) : Option (Fin 16) := if h : b.toNat < 16 then some ⟨b.toNat, h⟩ else none

/-- The keys in index order, "0x0 before 0xF" (R242). -/
def allKeys : List (Fin 16) := [0, 1, 2, 3, 4, 5, 6, 7, 8, 9, 10, 11, 12, 13, 14, 15]

/-- `min { k | Key[k] == 1 }` (R242): none when no key is pressed. -/
def State.lowestKey (s : State) : Option (Fin 16) := allKeys.find? s.keyDown

/-- A key index as the byte stored in V[x], 0x00..0x0F (R242). -/
def keyByte (k : Fin 16) : Byte := BitVec.ofNat 8 k.val

end Sys2Proof.Machine
end

