-- ==== Sys2Proof/Machine/Alu.lean ====
section
/-! DEFINITION. The arithmetic, logic and data-move instructions (spec/41_alu.md). Each reads its operands before it writes,
completes, and advances PC by 2 (R130). -/

namespace Sys2Proof.Machine

/-- LD Vx, byte (R131). -/
def execLdByte (x : Reg) (kk : Byte) (s : State) : Result := .next (s.setReg x kk).advance

/-- ADD Vx, byte (R132): wraps, and sets no flag. -/
def execAddByte (x : Reg) (kk : Byte) (s : State) : Result := .next (s.setReg x (s.reg x + kk)).advance

/-- LD Vx, Vy (R133). -/
def execLdReg (x y : Reg) (s : State) : Result := .next (s.setReg x (s.reg y)).advance

/-- OR Vx, Vy (R134): VF is not reset. -/
def execOrReg (x y : Reg) (s : State) : Result := .next (s.setReg x (s.reg x ||| s.reg y)).advance

/-- AND Vx, Vy (R135): VF is not reset. -/
def execAndReg (x y : Reg) (s : State) : Result := .next (s.setReg x (s.reg x &&& s.reg y)).advance

/-- XOR Vx, Vy (R136): VF is not reset. -/
def execXorReg (x y : Reg) (s : State) : Result := .next (s.setReg x (s.reg x ^^^ s.reg y)).advance

/-- ADD Vx, Vy (R137): VF = carry. -/
def execAddReg (x y : Reg) (s : State) : Result :=
  .next (s.setResultFlag x (s.reg x + s.reg y) (carryOut (s.reg x) (s.reg y))).advance

/-- SUB Vx, Vy (R138): VF = no borrow. -/
def execSubReg (x y : Reg) (s : State) : Result :=
  .next (s.setResultFlag x (s.reg x - s.reg y) (noBorrow (s.reg x) (s.reg y))).advance

/-- SHR Vx, Vy (R139): VF = the old bit 0. -/
def execShrReg (x y : Reg) (s : State) : Result :=
  .next (s.setResultFlag x (s.shiftSource x y >>> 1) (lowBit (s.shiftSource x y))).advance

/-- SUBN Vx, Vy (R145): `V[y] - V[x]`, VF = no borrow. -/
def execSubnReg (x y : Reg) (s : State) : Result :=
  .next (s.setResultFlag x (s.reg y - s.reg x) (noBorrow (s.reg y) (s.reg x))).advance

/-- SHL Vx, Vy (R140): VF = the old bit 7. -/
def execShlReg (x y : Reg) (s : State) : Result :=
  .next (s.setResultFlag x (s.shiftSource x y <<< 1) (highBit (s.shiftSource x y))).advance

/-- RND Vx, byte (R144): the step's input `rnd_in`, masked. -/
def execRnd (x : Reg) (kk : Byte) (s : State) : Result := .next (s.setReg x (s.rndIn &&& kk)).advance

/-- LD I, addr (R146). -/
def execLdI (nnn : Addr12) (s : State) : Result := .next (s.setI (zextAddr nnn)).advance

/-- ADD I, Vx (R147): wraps at 16 bits, and sets no flag. -/
def execAddIVx (x : Reg) (s : State) : Result := .next (s.setI (s.i + zextByte (s.reg x))).advance

/-- LD B, Vx (R141): the three BCD digits at I, I+1, I+2, after one range check. -/
def execLdBVx (x : Reg) (s : State) : Result :=
  match rangeError s.base 3 with
  | some addr => s.raiseBounds (.ldBVx x) .mem addr
  | none => .next (s.writeBytes s.base (bcdDigits (s.reg x))).advance

/-- LD [I], Vx (R142): V0..Vx to memory at I, after one range check. -/
def execLdMemVx (x : Reg) (s : State) : Result :=
  if blockPastVF x then s.raiseBounds (.ldMemVx x) .regRange x.val
  else
    match rangeError s.base (blockLength x) with
    | some addr => s.raiseBounds (.ldMemVx x) .mem addr
    | none => .next ((s.writeBytes s.base (s.regBlock x)).bumpI x).advance

/-- LD Vx, [I] (R143): V0..Vx from memory at I, after one range check. -/
def execLdVxMem (x : Reg) (s : State) : Result :=
  if blockPastVF x then s.raiseBounds (.ldVxMem x) .regRange x.val
  else
    match rangeError s.base (blockLength x) with
    | some addr => s.raiseBounds (.ldVxMem x) .mem addr
    | none => .next ((s.loadBlock s.base x).bumpI x).advance

end Sys2Proof.Machine
end

