-- ==== Sys2Proof/Machine/Control.lean ====
section
/-! DEFINITION. The control-flow instructions (spec/42_control.md). -/

namespace Sys2Proof.Machine

/-- JP addr (R170). -/
def execJpAddr (nnn : Addr12) (s : State) : Result := .next (s.setPc (zextAddr nnn))

/-- JP V0, addr (R171): the target is not masked to 12 bits. -/
def execJpV0 (nnn : Addr12) (s : State) : Result := .next (s.setPc (zextAddr nnn + zextByte (s.reg 0)))

/-- CALL addr (R172): pushes the return address PC + 2, unless all 16 slots are in use. -/
def execCallAddr (nnn : Addr12) (s : State) : Result :=
  if h : s.sp.val < Config.stackDepth then .next ((s.push (s.pc + 2) h).setPc (zextAddr nnn))
  else s.raiseBounds (.callAddr nnn) .stackOverflow s.sp.val

/-- RET (R173): PC is the popped address, unless no slot is in use. -/
def execRet (u : Nibble) (s : State) : Result :=
  if h : 0 < s.sp.val then .next (s.popToPc h)
  else s.raiseBounds (.ret u) .stackUnderflow s.sp.val

/-- SE Vx, byte (R174). -/
def execSeByte (x : Reg) (kk : Byte) (s : State) : Result := .next (s.skipIf (s.reg x == kk))

/-- SNE Vx, byte (R175). -/
def execSneByte (x : Reg) (kk : Byte) (s : State) : Result := .next (s.skipIf (s.reg x != kk))

/-- SE Vx, Vy (R176). -/
def execSeReg (x y : Reg) (s : State) : Result := .next (s.skipIf (s.reg x == s.reg y))

/-- SNE Vx, Vy (R177). -/
def execSneReg (x y : Reg) (s : State) : Result := .next (s.skipIf (s.reg x != s.reg y))

/-- SKP Vx (R178): skip if the key V[x] names is down. -/
def execSkp (x : Reg) (s : State) : Result :=
  match keyIndex (s.reg x) with
  | some k => .next (s.skipIf (s.keyDown k))
  | none => s.raiseBounds (.skp x) .keyIndex (s.reg x).toNat

/-- SKNP Vx (R179): skip if the key V[x] names is not down. -/
def execSknp (x : Reg) (s : State) : Result :=
  match keyIndex (s.reg x) with
  | some k => .next (s.skipIf (!s.keyDown k))
  | none => s.raiseBounds (.sknp x) .keyIndex (s.reg x).toNat

end Sys2Proof.Machine
end

