-- ==== Sys2Proof/Machine/Display.lean ====
section
/-! DEFINITION. The sprite-blit datapath and the display instructions (spec/43_display.md). -/

namespace Sys2Proof.Machine

/-- `Disp[r][c] <- Disp[r][c] XOR 1` (R200). -/
def Display.toggle (d : Display) (r : Fin 32) (c : Fin 64) : Display := d.set r (d[r].set c (!d[r][c]))

/-- All pixels 0 (R205, R291). -/
def Display.blank : Display := Vector.replicate 32 (Vector.replicate 64 false)

/-- `(y0 + r) mod 32` (R201). -/
def wrapRow (y0 : Byte) (r : Nat) : Fin 32 := Fin.ofNat 32 (y0.toNat + r)

/-- `(x0 + c) mod 64` (R201). -/
def wrapColumn (x0 : Byte) (c : Nat) : Fin 64 := Fin.ofNat 64 (x0.toNat + c)

/-- The bitmap and the collision found so far, while a sprite is drawn (R200). -/
structure Blit where
  disp : Display
  collision : Bool
deriving DecidableEq, Repr

/-- One set bit of the sprite: collide if its pixel is set, then toggle it (R200). -/
def blitPixel (r : Fin 32) (c : Fin 64) (acc : Blit) : Blit :=
  { disp := Display.toggle acc.disp r c, collision := acc.collision || acc.disp[r][c] }

/-- Column `c` of sprite row `b`: bit 7 - c, most significant first (R200). -/
def blitColumn (x0 : Byte) (row : Fin 32) (b : Byte) (acc : Blit) (c : Nat) : Blit :=
  if b.getLsbD (7 - c) then blitPixel row (wrapColumn x0 c) acc else acc

/-- The eight columns of one sprite row (R200). -/
def blitRow (x0 : Byte) (row : Fin 32) (b : Byte) (acc : Blit) : Blit :=
  [0, 1, 2, 3, 4, 5, 6, 7].foldl (blitColumn x0 row b) acc

/-- The rows of a sprite from row `r` on (R200). -/
def blitRows (x0 y0 : Byte) : Nat → List Byte → Blit → Blit
  | _, [], acc => acc
  | r, b :: rest, acc => blitRows x0 y0 (r + 1) rest (blitRow x0 (wrapRow y0 r) b acc)

/-- Drawing a sprite at (x0, y0) (R200): the new bitmap and the collision. -/
def blit (x0 y0 : Byte) (sprite : List Byte) (d : Display) : Blit :=
  blitRows x0 y0 0 sprite { disp := d, collision := false }

/-- DRW Vx, Vy, nibble (R200): the sprite at I, drawn at (V[x], V[y]) by XOR; then VF = collision. -/
def execDrw (x y : Reg) (n : Nibble) (s : State) : Result :=
  match rangeError s.base n.toNat with
  | some addr => s.raiseBounds (.drw x y n) .mem addr
  | none =>
    let drawn := blit (s.reg x) (s.reg y) (s.readBytes s.base n.toNat) s.disp
    .next ((s.setDisplay drawn.disp).setFlag drawn.collision).advance

/-- CLS (R205): present only under `CLS_PRESENT`, which decoding checks (R77). -/
def execCls (s : State) : Result := .next (s.setDisplay Display.blank).advance

/-- LD F, Vx (R206): I at the glyph of a digit. -/
def execLdFVx (x : Reg) (s : State) : Result := .next (s.setI (glyphAddress s.cfg (s.reg x))).advance

end Sys2Proof.Machine
end

