-- ==== Sys2Proof/Machine/TimerKey.lean ====
section
/-! DEFINITION. The timer instructions and the key wait (spec/44_timer_key.md). -/

namespace Sys2Proof.Machine

/-- LD Vx, DT (R233). -/
def execLdVxDT (x : Reg) (s : State) : Result := .next (s.setReg x s.dt).advance

/-- LD DT, Vx (R234). -/
def execLdDTVx (x : Reg) (s : State) : Result := .next (s.setDT (s.reg x)).advance

/-- LD ST, Vx (R235): the write itself never requests sound (R231). -/
def execLdSTVx (x : Reg) (s : State) : Result := .next (s.setST (s.reg x)).advance

/-- The end of a key wait (R241, R243): the key to V[x], and PC past the Fx0A. -/
def State.takeKey (s : State) (x : Reg) (k : Fin 16) : State := (s.setReg x (keyByte k)).advance

/-- LD Vx, K (R241): completes with the lowest pressed key of the latch, or enters AwaitingKey and leaves PC where it is. -/
def execLdVxK (x : Reg) (s : State) : Result :=
  match s.lowestKey with
  | some k => .next (s.takeKey x k)
  | none => .next (s.awaitKey x)

end Sys2Proof.Machine
end

