-- ==== Sys2Proof/Machine/Engine.lean ====
section
/-! DEFINITION. The fetch-execute engine (spec/40_engine.md), the wait iteration (spec/44_timer_key.md R243), the host's inputs
between steps (R100, R308) and the program load (spec/70_reset_and_hazards.md R293). -/

namespace Sys2Proof.Machine

/-! ### Phases 3 and 4 -/

/-- Phase 3 (R230, R231): each timer that is not 0 goes down by 1; `sound_req` is 1 exactly when ST goes from 1 to 0. -/
def State.tick (s : State) : State :=
  { s with
    dt := if s.dt = 0 then 0 else s.dt - 1
    st := if s.st = 0 then 0 else s.st - 1
    soundReq := s.st == 1 }

/-- Phase 4 (R106): `present_req <- dirty; dirty <- 0`. -/
def State.present (s : State) : State := { s with presentReq := s.dirty, dirty := false }

/-- The end of an outer cycle whose instruction completed: phase 3, then phase 4 (R101, R300). -/
def State.endCycle (s : State) : State := s.tick.present

/-! ### The host between steps -/

/-- No request yet in this step (R36: the outputs are one-shot). -/
def State.clearOutputs (s : State) : State := { s with presentReq := false, soundReq := false }

/-- The input the host presents at the step after this one (R100, R308): what `hostQueue` says, and a free draw when it says
nothing (log entry 2). -/
def State.nextInput (s : State) : HostInput :=
  match s.hostQueue with
  | input :: _ => input
  | [] => { keys := Config.freeKeys s.drawCount, quit := Config.freeQuit s.drawCount, rnd := Config.freeRnd s.drawCount }

/-- The host acts between two steps (R100): new inputs, with `quit_in` sticky ("once quit_in has been 1, it stays 1 at every
later step"). -/
def State.hostActs (s : State) : State :=
  { s with
    keysIn := s.nextInput.keys
    quitIn := s.quitIn || s.nextInput.quit
    rndIn := s.nextInput.rnd
    hostQueue := s.hostQueue.tail
    drawCount := if s.hostQueue.isEmpty then s.drawCount + 1 else s.drawCount }

/-! ### The steps -/

/-- The word at PC, `Mem[PC] ++ Mem[PC+1]` (R53, R102). -/
def State.fetchWord (s : State) : Word := wordOfBytes (s.readByte s.pc.toNat) (s.readByte (s.pc.toNat + 1))

/-- Phase 2: fetch, decode and dispatch (R102, R103). The FETCH check comes before decoding (R265). -/
def execute (s : State) : Result :=
  match rangeError s.pc.toNat 2 with
  | some addr => s.raise (.boundsError .fetch s.pc none addr)
  | none =>
    match decode s.cfg s.fetchWord with
    | .error _ => s.raise (.decodeError s.pc s.fetchWord)
    | .ok i => exec i s

/-- What follows phase 2 (R101): phases 3 and 4 when the instruction completed; nothing when it waits or has faulted. -/
def State.finishCycle (s : State) : State :=
  match s.mode with
  | .running => s.endCycle
  | .awaitingKey _ => s
  | .halted _ => s

/-- Apply a function to the next state of a result. -/
def mapNext (f : State → State) (r : Result) : Result :=
  match r with
  | .next s => .next (f s)
  | .fault e => .fault e
  | .refused e => .refused e

/-- The outer cycle, for `mode = Running` (R101): quit check, key refresh, one instruction, and what follows it. -/
def cycle (s : State) : Result :=
  if s.quitIn then .next (s.halt .quit)
  else mapNext State.finishCycle (execute s.refreshKeys)

/-- The wait iteration, for `mode = AwaitingKey(x)` (R243, R245): quit check, key refresh; with a key down the Fx0A completes
and the outer cycle that fetched it ends; without one nothing but the latch changes. -/
def waitIteration (x : Reg) (s : State) : Result :=
  if s.quitIn then .next (s.halt .quit)
  else
    match s.refreshKeys.lowestKey with
    | some k => .next (s.refreshKeys.takeKey x k).resume.endCycle
    | none => .next s.refreshKeys

/-- One step (R33, R100): an outer cycle or a wait iteration, after which the host acts; no step in `Halted` (R108). -/
def engineStep (s : State) : Result :=
  match s.mode with
  | .running => mapNext State.hostActs (cycle s.clearOutputs)
  | .awaitingKey x => mapNext State.hostActs (waitIteration x s.clearOutputs)
  | .halted (.error e) => .fault (.error e)
  | .halted .quit => .fault .quit

/-! ### Placing a program -/

/-- The program load (R293, R269): the bytes at 0x200, or LoadError when they do not fit. It comes before the first step. -/
def loadProgram (program : List Byte) (s : State) : Result :=
  if program.length ≤ Config.progMax then .next (s.writeBytes Config.progBase program)
  else .refused (.loadError program.length)

/-- Where the next fetch happens: at PC, or at the entry point when PC can fetch nothing (R102). -/
def State.fetchAddress (s : State) : Nat := if s.pc.toNat + 2 ≤ Config.memSize then s.pc.toNat else Config.progBase

/-- `s` about to fetch the word `w` in an outer cycle: the word in memory at PC, most significant byte first (R53), the mode
Running and no quit, so that the next step fetches (R101, R107). A CLS word also selects `CLS_PRESENT`, without which it is
no instruction (R77; log entry 8). -/
def State.placeWord (s : State) (w : Word) : State :=
  { (s.writeBytes s.fetchAddress [Word.hiByte w, Word.loByte w]) with
    pc := BitVec.ofNat 16 s.fetchAddress
    mode := .running
    quitIn := false
    cfg := { s.cfg with clsPresent := s.cfg.clsPresent || Word.isCls w } }

/-- An input of a host that presses no key and does not quit. -/
def HostInput.idle : HostInput := { keys := 0, quit := false, rnd := 0 }

end Sys2Proof.Machine
end

