-- ==== Sys2Proof/Safety.lean ====
section
/-! DEFINITION. What a safe run is, the invariant of the core, and the parts of the state a frame speaks of. -/

namespace Sys2Proof.Machine

/-! ### Safe runs -/

/-- The core has halted on a fatal error (spec/60_exceptions.md R264): "not a final state of a successful run". -/
def State.failed (s : State) : Bool :=
  match s.mode with
  | .halted (.error _) => true
  | .halted .quit | .running | .awaitingKey _ => false

/-- A run of `k` steps that reaches no fatal error: every prefix of it has a state, and none of them has failed. A run that
waits for a key, loops, or ends by quit at its last step is safe (R109, R246). -/
def SafeRun (k : Nat) (s : State) : Prop :=
  ∀ j ≤ k, ∃ t : State, Host.Core.run Sys2Proof.core j s = .next t ∧ t.failed = false

/-! ### The invariant -/

/-- What holds at startup and at every step boundary after it. -/
structure State.Inv (s : State) : Prop where
  /-- Memory is in its canonical form. -/
  memory : Memory.wf s.cfg s.mem
  /-- R23: no value written to PC exceeds 0x10FE. -/
  pc_bound : s.pc.toNat ≤ 0x10FE
  /-- R23, R172: no return address exceeds 0x1000. -/
  return_bound : ∀ j : Fin 16, (s.stack[j]).toNat ≤ 0x1000
  /-- R106: phase 4 has cleared the dirty flag. -/
  clean : s.dirty = false
  /-- R33, R241, R243: in a wait, PC addresses the Fx0A that waits, and no key is down. -/
  waiting : ∀ x, s.mode = .awaitingKey x →
    s.pc.toNat + 2 ≤ Config.memSize ∧ decode s.cfg s.fetchWord = .ok (.ldVxK x) ∧ s.key = 0

/-! ### Frames -/

/-- Every register outside `xs` is unchanged. -/
def SameRegs (xs : List Reg) (s t : State) : Prop := ∀ z : Reg, z ∉ xs → t.reg z = s.reg z

/-- Every byte of memory reads as before. -/
def SameMemory (s t : State) : Prop := ∀ a : Nat, t.readByte a = s.readByte a

/-- Every byte of memory outside the `n` bytes at `a` reads as before. -/
def SameMemoryOutside (a n : Nat) (s t : State) : Prop :=
  ∀ b : Nat, (b < a ∨ a + n ≤ b) → t.readByte b = s.readByte b

/-- I is unchanged. -/
def SameIndex (s t : State) : Prop := t.i = s.i

/-- The call stack, its slots and SP, is unchanged. -/
def SameStack (s t : State) : Prop := t.stack = s.stack ∧ t.sp = s.sp

/-- Both timers are unchanged. -/
def SameTimers (s t : State) : Prop := t.dt = s.dt ∧ t.st = s.st

/-- The bitmap and its dirty flag are unchanged. -/
def SameDisplay (s t : State) : Prop := t.disp = s.disp ∧ t.dirty = s.dirty

/-- The key latch, the configuration, and the boundary with the host are unchanged. -/
def SameHost (s t : State) : Prop :=
  t.key = s.key ∧ t.cfg = s.cfg ∧ t.presentReq = s.presentReq ∧ t.soundReq = s.soundReq ∧ t.keysIn = s.keysIn ∧
  t.quitIn = s.quitIn ∧ t.rndIn = s.rndIn ∧ t.hostQueue = s.hostQueue ∧ t.drawCount = s.drawCount

/-- Nothing but the registers in `xs` and PC has changed: the frame of a register instruction. -/
def OnlyRegs (xs : List Reg) (s t : State) : Prop :=
  SameRegs xs s t ∧ SameMemory s t ∧ SameIndex s t ∧ SameStack s t ∧ SameTimers s t ∧ SameDisplay s t ∧ SameHost s t ∧
  t.mode = s.mode

/-- Nothing but I and PC has changed. -/
def OnlyIndex (s t : State) : Prop :=
  SameRegs [] s t ∧ SameMemory s t ∧ SameStack s t ∧ SameTimers s t ∧ SameDisplay s t ∧ SameHost s t ∧ t.mode = s.mode

/-- Nothing but PC has changed. -/
def OnlyPc (s t : State) : Prop := OnlyRegs [] s t

/-- Nothing but the mode has changed: what a raised error leaves (R262). -/
def OnlyMode (s t : State) : Prop :=
  SameRegs [] s t ∧ SameMemory s t ∧ SameIndex s t ∧ SameStack s t ∧ SameTimers s t ∧ SameDisplay s t ∧ SameHost s t ∧
  t.pc = s.pc

end Sys2Proof.Machine
end

