-- ==== Sys2Proof/Certificates/Slice0/Obligations.lean ====
section
/-! DEFINITION. The statements about the CHIP-8 core, each one clause of the spec or a rule about the whole machine. The tables
and predicates they are written with come first. -/

namespace Sys2Proof.Machine

/-- The illegal words of R83, in plain arithmetic on the word: class `w / 0x1000`, `kk` = `w mod 0x100`, `n` = `w mod 0x10`. -/
def IllegalWord (cfg : Config) (w : Word) : Prop :=
  (w.toNat / 0x1000 = 0x0 ∧ w.toNat % 0x100 ≠ 0xEE ∧ ¬ (w.toNat % 0x100 = 0xE0 ∧ cfg.clsPresent = true)) ∨
  (w.toNat / 0x1000 = 0x8 ∧ w.toNat % 0x10 ∈ [0x8, 0x9, 0xA, 0xB, 0xC, 0xD, 0xF]) ∨
  (w.toNat / 0x1000 = 0xE ∧ w.toNat % 0x100 ∉ [0x9E, 0xA1]) ∨
  (w.toNat / 0x1000 = 0xF ∧ w.toNat % 0x100 ∉ [0x07, 0x0A, 0x15, 0x18, 0x1E, 0x29, 0x33, 0x55, 0x65])

/-- The cause table of R261 for the errors a handler raises: the sub-kind and the info, when the instruction's condition
holds. A DRW of no rows raises nothing whatever I is: R204 (the spec's decision D15, log entry 16) over the table's literal
`I + len > 4096`. -/
def errorOf (i : Instr) (s : State) : Option (BoundsKind × Nat) :=
  match i with
  | .callAddr _ => if s.sp.val = 16 then some (.stackOverflow, s.sp.val) else none
  | .ret _ => if s.sp.val = 0 then some (.stackUnderflow, s.sp.val) else none
  | .skp x | .sknp x => if 15 < (s.reg x).toNat then some (.keyIndex, (s.reg x).toNat) else none
  | .drw _ _ n => if n.toNat ≠ 0 ∧ 4096 < s.i.toNat + n.toNat then some (.mem, max s.i.toNat 0x1000) else none
  | .ldBVx _ => if 4096 < s.i.toNat + 3 then some (.mem, max s.i.toNat 0x1000) else none
  | .ldMemVx x | .ldVxMem x =>
    if 4096 < s.i.toNat + (x.val + 1) then some (.mem, max s.i.toNat 0x1000) else none
  | .cls _ | .jpAddr _ | .seByte _ _ | .sneByte _ _ | .seReg _ _ _ | .ldByte _ _ | .addByte _ _ | .ldReg _ _ | .orReg _ _
  | .andReg _ _ | .xorReg _ _ | .addReg _ _ | .subReg _ _ | .shrReg _ _ | .subnReg _ _ | .shlReg _ _ | .sneReg _ _ _
  | .ldI _ | .jpV0 _ | .rnd _ _ | .ldVxDT _ | .ldVxK _ | .ldDTVx _ | .ldSTVx _ | .addIVx _ | .ldFVx _ => none

/-- The table of R104: PC after an instruction at PC that completes, as an exact natural number. -/
def pcAfter (i : Instr) (s : State) : Nat :=
  match i with
  | .jpAddr nnn => nnn.toNat
  | .jpV0 nnn => nnn.toNat + (s.reg 0).toNat
  | .callAddr nnn => nnn.toNat
  | .ret _ => (s.stack[s.sp.val - 1]?.getD 0).toNat
  | .seByte x kk => if s.reg x = kk then s.pc.toNat + 4 else s.pc.toNat + 2
  | .sneByte x kk => if s.reg x ≠ kk then s.pc.toNat + 4 else s.pc.toNat + 2
  | .seReg x y _ => if s.reg x = s.reg y then s.pc.toNat + 4 else s.pc.toNat + 2
  | .sneReg x y _ => if s.reg x ≠ s.reg y then s.pc.toNat + 4 else s.pc.toNat + 2
  | .skp x => if s.key.getLsbD (s.reg x).toNat = true then s.pc.toNat + 4 else s.pc.toNat + 2
  | .sknp x => if s.key.getLsbD (s.reg x).toNat = false then s.pc.toNat + 4 else s.pc.toNat + 2
  | .cls _ | .ldByte _ _ | .addByte _ _ | .ldReg _ _ | .orReg _ _ | .andReg _ _ | .xorReg _ _ | .addReg _ _ | .subReg _ _
  | .shrReg _ _ | .subnReg _ _ | .shlReg _ _ | .ldI _ | .rnd _ _ | .drw _ _ _ | .ldVxDT _ | .ldVxK _ | .ldDTVx _
  | .ldSTVx _ | .addIVx _ | .ldFVx _ | .ldBVx _ | .ldMemVx _ | .ldVxMem _ => s.pc.toNat + 2

/-- The skip instructions (R104, R180). -/
def isSkip (i : Instr) : Bool :=
  match i with
  | .seByte _ _ | .sneByte _ _ | .seReg _ _ _ | .sneReg _ _ _ | .skp _ | .sknp _ => true
  | .cls _ | .ret _ | .jpAddr _ | .callAddr _ | .ldByte _ _ | .addByte _ _ | .ldReg _ _ | .orReg _ _ | .andReg _ _
  | .xorReg _ _ | .addReg _ _ | .subReg _ _ | .shrReg _ _ | .subnReg _ _ | .shlReg _ _ | .ldI _ | .jpV0 _ | .rnd _ _
  | .drw _ _ _ | .ldVxDT _ | .ldVxK _ | .ldDTVx _ | .ldSTVx _ | .addIVx _ | .ldFVx _ | .ldBVx _ | .ldMemVx _
  | .ldVxMem _ => false

/-- The pixels DRW Vx, Vy, n touches (R200, R201): set bit `7 - k` of the sprite byte at I + j lands on row
(V[y] + j) mod 32, column (V[x] + k) mod 64. -/
def SpriteCovers (s : State) (x y : Reg) (n : Nibble) (r : Fin 32) (c : Fin 64) : Prop :=
  ∃ j k : Nat, j < n.toNat ∧ k < 8 ∧ (s.readByte (s.i.toNat + j)).getLsbD (7 - k) = true ∧
    ((s.reg y).toNat + j) % 32 = r.val ∧ ((s.reg x).toNat + k) % 64 = c.val

/-- The range check of DRW passes (R200, R204). -/
def DrawInRange (s : State) (n : Nibble) : Prop := n.toNat = 0 ∨ s.i.toNat + n.toNat ≤ 4096

/-- The state at the start of phase 2 of a step (R101): the one-shot outputs off, the keys refreshed. -/
def phase2State (s : State) : State := { s with key := s.keysIn, presentReq := false, soundReq := false }

/-- Everything a program can see or change, but the key latch, is as before: registers, I, PC, memory, stack, timers,
display, configuration. -/
def ProgramStateSame (s t : State) : Prop :=
  SameRegs [] s t ∧ SameMemory s t ∧ SameIndex s t ∧ SameStack s t ∧ SameTimers s t ∧ SameDisplay s t ∧ t.pc = s.pc ∧
  t.cfg = s.cfg

end Sys2Proof.Machine

open Sys2Proof Sys2Proof.Machine

/-! ### Encoding -/

/-- R79, R82: decoding the word of a well-formed instruction gives the instruction back, every operand at every value. The bit
patterns are the spec's general knowledge (G1; log entry 10). -/
def Obligations.DecodeOfEncode : Prop :=
  ∀ (cfg : Config) (i : Instr), i.wellFormed cfg = true → decode cfg (encode i) = .ok i

/-- The other direction (R79, R82): a word that decodes is the word of the instruction it decodes to, and that instruction is
one the configuration admits. That the word comes back whole, its ignored bits too (0x01EE, 0x5127), is the model's choice:
R82 decodes 0x00EE and 0x01EE to the same RET, and the model keeps the ignored bits in the instruction (log entry 9). -/
def Obligations.EncodeOfDecode : Prop :=
  ∀ (cfg : Config) (w : Word) (i : Instr), decode cfg w = .ok i → encode i = w ∧ i.wellFormed cfg = true

/-- R83: exactly the listed words have no handler, and every other word is an instruction. -/
def Obligations.IllegalWordsAreTheListedOnes : Prop :=
  ∀ (cfg : Config) (w : Word),
    (IllegalWord cfg w → decode cfg w = .error (.illegal w)) ∧ (¬ IllegalWord cfg w → ∃ i, decode cfg w = .ok i)

/-- R79, R85: a word that decodes belongs to the opcode-table row of its instruction and to no other row. -/
def Obligations.DecodedWordBelongsToOneRow : Prop :=
  ∀ (cfg : Config) (w : Word) (i j : Instr), decode cfg w = .ok i →
    (j.opRow.matchesWord w = true ↔ j.opRow = i.opRow)

/-- R75 to R82: words written out from the patterns of R79, at least one of each of the sixteen families, decode to the
instruction they stand for. The patterns are the spec's general knowledge (log entry 10), and the ignored nibble kept in RET,
CLS and the register skips is the model's choice (log entry 9). -/
def Obligations.SampleWordsDecode : Prop :=
  decode Config.standard 0x00EE#16 = .ok (.ret 0) ∧ decode Config.allRows 0x00E0#16 = .ok (.cls 0) ∧
  decode Config.standard 0x1234#16 = .ok (.jpAddr 0x234) ∧ decode Config.standard 0x2ABC#16 = .ok (.callAddr 0xABC) ∧
  decode Config.standard 0x3A12#16 = .ok (.seByte 0xA 0x12) ∧ decode Config.standard 0x4B13#16 = .ok (.sneByte 0xB 0x13) ∧
  decode Config.standard 0x5127#16 = .ok (.seReg 1 2 7) ∧ decode Config.standard 0x6A42#16 = .ok (.ldByte 0xA 0x42) ∧
  decode Config.standard 0x70FF#16 = .ok (.addByte 0 0xFF) ∧ decode Config.standard 0x8AB6#16 = .ok (.shrReg 0xA 0xB) ∧
  decode Config.standard 0x9AB0#16 = .ok (.sneReg 0xA 0xB 0) ∧ decode Config.standard 0xA123#16 = .ok (.ldI 0x123) ∧
  decode Config.standard 0xBFED#16 = .ok (.jpV0 0xFED) ∧ decode Config.standard 0xC30F#16 = .ok (.rnd 3 0x0F) ∧
  decode Config.standard 0xD12F#16 = .ok (.drw 1 2 0xF) ∧ decode Config.standard 0xE3A1#16 = .ok (.sknp 3) ∧
  decode Config.standard 0xF533#16 = .ok (.ldBVx 5) ∧ decode Config.standard 0xFE65#16 = .ok (.ldVxMem 0xE)

/-! ### The engine -/

/-- R101, R103: when the two bytes at PC decode to `i`, a step is the key refresh, `exec i`, then phases 3 and 4 if it
completed, and then the host's next inputs (`hostActs`, the model's boundary, log entry 2). -/
def Obligations.StepRunsTheDecodedInstruction : Prop :=
  ∀ (s t : State) (i : Instr), s.mode = .running → s.quitIn = false → s.pc.toNat + 2 ≤ 4096 →
    decode s.cfg (wordOfBytes (s.readByte s.pc.toNat) (s.readByte (s.pc.toNat + 1))) = .ok i →
    exec i (phase2State s) = .next t →
    step s = .next (match t.mode with
      | .running => t.tick.present.hostActs
      | .awaitingKey _ => t.hostActs
      | .halted _ => t.hostActs)

/-- R102: the fetch at PC ≥ 0xFFF raises BoundsError(FETCH) with the lowest out-of-range address and no word, and changes
nothing; the fetch below reads `Mem[PC] ++ Mem[PC+1]` and raises nothing. -/
def Obligations.FetchRaisesPastTheEnd : Prop :=
  (∀ s : State, s.mode = .running → s.quitIn = false → 0xFFF ≤ s.pc.toNat →
    ∃ t, step s = .next t ∧ ProgramStateSame s t ∧
      t.mode = .halted (.error (.boundsError .fetch s.pc none
        (if s.pc = 0xFFF then s.pc.toNat + 1 else s.pc.toNat)))) ∧
  (∀ s : State, s.fetchWord.toNat = (s.readByte s.pc.toNat).toNat * 256 + (s.readByte (s.pc.toNat + 1)).toNat) ∧
  (∀ s t : State, s.mode = .running → s.pc.toNat ≤ 0xFFE → step s = .next t →
    ∀ pc word info, t.mode ≠ .halted (.error (.boundsError .fetch pc word info)))

/-- R83, R103, R262: a word with no handler halts the core with the DecodeError record of its address and raw word; nothing a
program can see changes, and there is no tick and no present request. -/
def Obligations.IllegalWordHalts : Prop :=
  ∀ (s : State), s.mode = .running → s.quitIn = false → s.pc.toNat + 2 ≤ 4096 → IllegalWord s.cfg s.fetchWord →
    ∃ t, step s = .next t ∧ t.mode = .halted (.error (.decodeError s.pc s.fetchWord)) ∧ ProgramStateSame s t ∧
      t.presentReq = false ∧ t.soundReq = false

/-- R107, R245 (D3): a quit seen at the start of a cycle or of a wait iteration halts the core, and nothing else changes: no
refresh, no instruction, no tick, no request. -/
def Obligations.QuitHaltsBeforeAnythingElse : Prop :=
  ∀ (s : State), s.quitIn = true → (s.mode = .running ∨ ∃ x, s.mode = .awaitingKey x) →
    ∃ t, step s = .next t ∧ t.mode = .halted .quit ∧ ProgramStateSame s t ∧ t.key = s.key ∧
      t.presentReq = false ∧ t.soundReq = false

/-- R108: in `Halted(r)` the engine has no step, and `halt_out` carries `r`. -/
def Obligations.HaltedHasNoStep : Prop :=
  ∀ (s : State) (r : HaltReason), s.mode = .halted r → s.haltOut = some r ∧ ∀ t, step s ≠ .next t

/-- R240: the latch becomes `keys_in`, all 16 bits, in every step that is not stopped by quit, and at no other time: a step
that quits leaves it, and no instruction changes it. -/
def Obligations.KeyLatchChangesOnlyByRefresh : Prop :=
  (∀ s t : State, step s = .next t → s.quitIn = false → t.key = s.keysIn) ∧
  (∀ s t : State, step s = .next t → s.quitIn = true → t.key = s.key) ∧
  (∀ (i : Instr) (s t : State), exec i s = .next t → t.key = s.key)

/-- R105, R230: each timer goes down by exactly 1, not below 0, once per completed outer cycle, after the instruction; a cycle
that waits or faults, and a wait iteration that finds no key, does not tick; `sound_req` is a tick of ST from 1 to 0. -/
def Obligations.TimersTickOncePerCompletedCycle : Prop :=
  ∀ s t : State, step s = .next t → s.quitIn = false →
    (∀ u : State, s.mode = .running → execute (phase2State s) = .next u →
      (u.mode = .running →
        t.dt.toNat = u.dt.toNat - 1 ∧ t.st.toNat = u.st.toNat - 1 ∧ (t.soundReq = true ↔ u.st.toNat = 1)) ∧
      (u.mode ≠ .running → t.dt = u.dt ∧ t.st = u.st ∧ t.soundReq = false)) ∧
    (∀ x : Reg, s.mode = .awaitingKey x →
      (t.mode = .running →
        t.dt.toNat = s.dt.toNat - 1 ∧ t.st.toNat = s.st.toNat - 1 ∧ (t.soundReq = true ↔ s.st.toNat = 1)) ∧
      (t.mode ≠ .running → t.dt = s.dt ∧ t.st = s.st ∧ t.soundReq = false))

/-- R106, R203 (D22): from a clean display flag, a step raises `present_req` exactly when it ran a DRW, or a CLS, that
completed; and the flag is clean again after every step. -/
def Obligations.PresentRequestFollowsDrawing : Prop :=
  ∀ s t : State, step s = .next t → s.dirty = false →
    t.dirty = false ∧
    (t.presentReq = true ↔
      s.mode = .running ∧ s.quitIn = false ∧ s.pc.toNat + 2 ≤ 4096 ∧
      ((∃ u, decode s.cfg s.fetchWord = .ok (.cls u)) ∨
       (∃ x y n, decode s.cfg s.fetchWord = .ok (.drw x y n) ∧ DrawInRange s n)))

/-- R23, R26, R33, R106, R241: every step keeps the invariant: canonical memory, PC ≤ 0x10FE, return addresses ≤ 0x1000, a
clean display flag, and in a wait the Fx0A at PC with no key down. -/
def Obligations.StepKeepsInvariant : Prop :=
  ∀ s t : State, s.Inv → step s = .next t → t.Inv

/-- The invariant holds at startup, in every configuration, and after a program load (R290, R293). -/
def Obligations.StartupMeetsInvariant : Prop :=
  State.reset.Inv ∧
  ∀ (cfg : Config) (program : List Byte) (t : State), loadProgram program (State.startup cfg) = .next t → t.Inv

/-- R7, R100: no step changes the configuration, and `quit_in` is sticky. -/
def Obligations.ConfigurationFixedAndQuitSticky : Prop :=
  ∀ s t : State, step s = .next t → t.cfg = s.cfg ∧ (s.quitIn = true → t.quitIn = true)

/-! ### Errors -/

/-- R11, R262 (D16): an instruction that raises changes nothing but the mode. -/
def Obligations.RaisingInstructionChangesOnlyTheMode : Prop :=
  ∀ (i : Instr) (s t : State) (r : HaltReason), s.mode = .running → exec i s = .next t → t.mode = .halted r →
    OnlyMode s t ∧ ∃ e, r = .error e

/-- R33, R103, R108: no instruction is without an effect, and the engine has a step in every mode but `Halted`. There the
model answers the fault that names the reason, which is its own choice (log entry 5), as is an effect of CLS where the
configuration has none (log entry 13). -/
def Obligations.EngineStepsUnlessHalted : Prop :=
  (∀ (i : Instr) (s : State), ∃ t, exec i s = .next t) ∧
  (∀ s : State, (∃ t, step s = .next t) ↔ ∀ r, s.mode ≠ .halted r) ∧
  (∀ (s : State) (e : ErrorRecord), s.mode = .halted (.error e) → step s = .fault (.error e)) ∧
  (∀ s : State, s.mode = .halted .quit → step s = .fault .quit)

/-- R261, R265 (D14, D30): an instruction halts exactly on the condition the cause table gives it, with that record: its
address, its raw word, and the table's info. For DRW with n = 0 the condition is R204's, that it never raises (D15, log
entry 16), and not the table's literal one. -/
def Obligations.InstructionsRaiseByTheCauseTable : Prop :=
  ∀ (i : Instr) (s t : State), s.mode = .running → exec i s = .next t →
    ∀ e : ErrorRecord, t.mode = .halted (.error e) ↔
      ∃ k n, errorOf i s = some (k, n) ∧ e = .boundsError k s.pc (some (encode i)) n

/-- R152: no step ends in BoundsError(REG_RANGE). -/
def Obligations.RegisterRangeErrorIsNeverRaised : Prop :=
  ∀ s t : State, step s = .next t → ∀ pc word info, t.mode ≠ .halted (.error (.boundsError .regRange pc word info))

/-! ### PC -/

/-- R104: PC after each instruction that completes, exact as a natural number for a PC that a fetch reads at; and PC unchanged
by an instruction that waits or faults. -/
def Obligations.PcAdvancesByTheTable : Prop :=
  ∀ (i : Instr) (s t : State), s.mode = .running → s.pc.toNat ≤ 0xFFE → exec i s = .next t →
    (t.mode = .running → t.pc.toNat = pcAfter i s) ∧ (t.mode ≠ .running → t.pc = s.pc)

/-! ### Arithmetic, logic and moves -/

/-- R131: LD Vx, byte. (The encoding clause is the spec's general knowledge, log entry 10.) -/
def Obligations.LoadImmediateResult : Prop :=
  ∀ (x : Reg) (kk : Byte) (s : State),
    (encode (.ldByte x kk)).toNat = 0x6000 + x.val * 0x100 + kk.toNat ∧
    ∃ t, exec (.ldByte x kk) s = .next t ∧ t.reg x = kk ∧ t.pc = s.pc + 2 ∧ OnlyRegs [x] s t

/-- R132: ADD Vx, byte wraps and sets no flag: VF is unchanged unless it is the destination. (The encoding clause: log entry
10.) -/
def Obligations.AddImmediateSetsNoFlag : Prop :=
  ∀ (x : Reg) (kk : Byte) (s : State),
    (encode (.addByte x kk)).toNat = 0x7000 + x.val * 0x100 + kk.toNat ∧
    ∃ t, exec (.addByte x kk) s = .next t ∧ (t.reg x).toNat = ((s.reg x).toNat + kk.toNat) % 256 ∧
      t.pc = s.pc + 2 ∧ OnlyRegs [x] s t

/-- R133: LD Vx, Vy. (The encoding clause: log entry 10.) -/
def Obligations.RegisterCopyResult : Prop :=
  ∀ (x y : Reg) (s : State),
    (encode (.ldReg x y)).toNat = 0x8000 + x.val * 0x100 + y.val * 0x10 ∧
    ∃ t, exec (.ldReg x y) s = .next t ∧ t.reg x = s.reg y ∧ t.pc = s.pc + 2 ∧ OnlyRegs [x] s t

/-- R134, R135, R136 (D10): OR, AND and XOR, bit by bit; VF is not reset. -/
def Obligations.LogicResults : Prop :=
  ∀ (x y : Reg) (s : State),
    (∃ t, exec (.orReg x y) s = .next t ∧ t.pc = s.pc + 2 ∧ OnlyRegs [x] s t ∧
      ∀ k, (t.reg x).getLsbD k = ((s.reg x).getLsbD k || (s.reg y).getLsbD k)) ∧
    (∃ t, exec (.andReg x y) s = .next t ∧ t.pc = s.pc + 2 ∧ OnlyRegs [x] s t ∧
      ∀ k, (t.reg x).getLsbD k = ((s.reg x).getLsbD k && (s.reg y).getLsbD k)) ∧
    (∃ t, exec (.xorReg x y) s = .next t ∧ t.pc = s.pc + 2 ∧ OnlyRegs [x] s t ∧
      ∀ k, (t.reg x).getLsbD k = ((s.reg x).getLsbD k ^^ (s.reg y).getLsbD k))

/-- R137: ADD Vx, Vy: VF = 1 iff the 9-bit sum exceeds 255, and VF wins when x = F. (The encoding clause: log
entry 10.) -/
def Obligations.AddWithCarryResult : Prop :=
  ∀ (x y : Reg) (s : State),
    (encode (.addReg x y)).toNat = 0x8004 + x.val * 0x100 + y.val * 0x10 ∧
    ∃ t, exec (.addReg x y) s = .next t ∧ t.pc = s.pc + 2 ∧ OnlyRegs [x, Reg.vF] s t ∧
      (x ≠ Reg.vF → (t.reg x).toNat = ((s.reg x).toNat + (s.reg y).toNat) % 256) ∧
      t.reg Reg.vF = if (s.reg x).toNat + (s.reg y).toNat > 255 then 1 else 0

/-- R138: SUB Vx, Vy: VF = 1 iff `a ≥ b`, and the stored result is `(a - b) mod 256`. (The encoding clause:
log entry 10.) -/
def Obligations.SubtractWithBorrowResult : Prop :=
  ∀ (x y : Reg) (s : State),
    (encode (.subReg x y)).toNat = 0x8005 + x.val * 0x100 + y.val * 0x10 ∧
    ∃ t, exec (.subReg x y) s = .next t ∧ t.pc = s.pc + 2 ∧ OnlyRegs [x, Reg.vF] s t ∧
      (x ≠ Reg.vF → (t.reg x).toNat = ((s.reg x).toNat + 256 - (s.reg y).toNat) % 256) ∧
      t.reg Reg.vF = if (s.reg x).toNat ≥ (s.reg y).toNat then 1 else 0

/-- R145 (D5): SUBN Vx, Vy is `Vy - Vx`; the flag mirrors SUB's. -/
def Obligations.ReverseSubtractResult : Prop :=
  ∀ (x y : Reg) (s : State),
    ∃ t, exec (.subnReg x y) s = .next t ∧ t.pc = s.pc + 2 ∧ OnlyRegs [x, Reg.vF] s t ∧
      (x ≠ Reg.vF → (t.reg x).toNat = ((s.reg y).toNat + 256 - (s.reg x).toNat) % 256) ∧
      t.reg Reg.vF = if (s.reg y).toNat ≥ (s.reg x).toNat then 1 else 0

/-- R139, R140 (D8): SHR and SHL of `V[x]`, or of `V[y]` under `SHIFT_USES_VY`: the result, and the bit shifted out in VF. -/
def Obligations.ShiftResults : Prop :=
  ∀ (x y : Reg) (s : State) (a : Nat), (a = if s.cfg.shiftUsesVy then (s.reg y).toNat else (s.reg x).toNat) →
    (∃ t, exec (.shrReg x y) s = .next t ∧ t.pc = s.pc + 2 ∧ OnlyRegs [x, Reg.vF] s t ∧
      (x ≠ Reg.vF → (t.reg x).toNat = a / 2) ∧ (t.reg Reg.vF).toNat = a % 2) ∧
    (∃ t, exec (.shlReg x y) s = .next t ∧ t.pc = s.pc + 2 ∧ OnlyRegs [x, Reg.vF] s t ∧
      (x ≠ Reg.vF → (t.reg x).toNat = 2 * a % 256) ∧ (t.reg Reg.vF).toNat = a / 128)

/-- R144 (D21): RND Vx, byte, for every value of the step's random input. -/
def Obligations.RandomByteIsMasked : Prop :=
  ∀ (x : Reg) (kk : Byte) (s : State),
    ∃ t, exec (.rnd x kk) s = .next t ∧ t.pc = s.pc + 2 ∧ OnlyRegs [x] s t ∧
      (∀ k, (t.reg x).getLsbD k = (s.rndIn.getLsbD k && kk.getLsbD k)) ∧
      (kk = 0 → t.reg x = 0) ∧ (kk = 0xFF → t.reg x = s.rndIn)

/-- R146, R147, R206 (D5, D11, D13): LD I, ADD I and LD F, at 16 bits, without a flag and without a memory access. -/
def Obligations.IndexInstructionsResult : Prop :=
  ∀ (s : State),
    (∀ nnn : Addr12, ∃ t, exec (.ldI nnn) s = .next t ∧ t.i.toNat = nnn.toNat ∧ t.pc = s.pc + 2 ∧ OnlyIndex s t) ∧
    (∀ x : Reg, ∃ t, exec (.addIVx x) s = .next t ∧ t.i.toNat = (s.i.toNat + (s.reg x).toNat) % 65536 ∧
      t.pc = s.pc + 2 ∧ OnlyIndex s t) ∧
    (∀ x : Reg, ∃ t, exec (.ldFVx x) s = .next t ∧ t.i.toNat = s.cfg.fontBase.val + 5 * (s.reg x).toNat ∧
      t.pc = s.pc + 2 ∧ OnlyIndex s t)

/-! ### Memory instructions -/

/-- R141 (D16): LD B, Vx stores the hundreds, tens and units digits at I, I+1, I+2 and nothing else; past the end of memory it
halts instead. -/
def Obligations.BcdStoreResult : Prop :=
  ∀ (x : Reg) (s : State),
    (s.i.toNat + 3 ≤ 4096 → ∃ t, exec (.ldBVx x) s = .next t ∧ t.pc = s.pc + 2 ∧ t.mode = s.mode ∧
      (t.readByte s.i.toNat).toNat * 100 + (t.readByte (s.i.toNat + 1)).toNat * 10 +
        (t.readByte (s.i.toNat + 2)).toNat = (s.reg x).toNat ∧
      (t.readByte (s.i.toNat + 1)).toNat < 10 ∧ (t.readByte (s.i.toNat + 2)).toNat < 10 ∧
      SameMemoryOutside s.i.toNat 3 s t ∧ SameRegs [] s t ∧ SameIndex s t ∧ SameStack s t ∧ SameTimers s t ∧
      SameDisplay s t ∧ SameHost s t) ∧
    (4096 < s.i.toNat + 3 → ∃ t, exec (.ldBVx x) s = .next t ∧ OnlyMode s t ∧
      t.mode = .halted (.error (.boundsError .mem s.pc (some (encode (.ldBVx x))) (max s.i.toNat 0x1000))))

/-- R142 (D9, D16): LD [I], Vx stores V0..Vx at I .. I+x and nothing else; I moves past the block only under
`LOADSTORE_INCREMENTS_I`; past the end of memory it halts instead. -/
def Obligations.BlockStoreResult : Prop :=
  ∀ (x : Reg) (s : State),
    (s.i.toNat + (x.val + 1) ≤ 4096 → ∃ t, exec (.ldMemVx x) s = .next t ∧ t.pc = s.pc + 2 ∧ t.mode = s.mode ∧
      (∀ z : Reg, z ≤ x → t.readByte (s.i.toNat + z.val) = s.reg z) ∧
      t.i.toNat = (if s.cfg.loadStoreIncrementsI then (s.i.toNat + x.val + 1) % 65536 else s.i.toNat) ∧
      SameMemoryOutside s.i.toNat (x.val + 1) s t ∧ SameRegs [] s t ∧ SameStack s t ∧ SameTimers s t ∧
      SameDisplay s t ∧ SameHost s t) ∧
    (4096 < s.i.toNat + (x.val + 1) → ∃ t, exec (.ldMemVx x) s = .next t ∧ OnlyMode s t ∧
      t.mode = .halted (.error (.boundsError .mem s.pc (some (encode (.ldMemVx x))) (max s.i.toNat 0x1000))))

/-- R143 (D9, D16): LD Vx, [I] loads V0..Vx from I .. I+x, leaves the registers above and memory alone, and treats I as the
store does; past the end of memory it halts instead. -/
def Obligations.BlockLoadResult : Prop :=
  ∀ (x : Reg) (s : State),
    (s.i.toNat + (x.val + 1) ≤ 4096 → ∃ t, exec (.ldVxMem x) s = .next t ∧ t.pc = s.pc + 2 ∧ t.mode = s.mode ∧
      (∀ z : Reg, z ≤ x → t.reg z = s.readByte (s.i.toNat + z.val)) ∧ (∀ z : Reg, x < z → t.reg z = s.reg z) ∧
      t.i.toNat = (if s.cfg.loadStoreIncrementsI then (s.i.toNat + x.val + 1) % 65536 else s.i.toNat) ∧
      SameMemory s t ∧ SameStack s t ∧ SameTimers s t ∧ SameDisplay s t ∧ SameHost s t) ∧
    (4096 < s.i.toNat + (x.val + 1) → ∃ t, exec (.ldVxMem x) s = .next t ∧ OnlyMode s t ∧
      t.mode = .halted (.error (.boundsError .mem s.pc (some (encode (.ldVxMem x))) (max s.i.toNat 0x1000))))

/-- R142, R143: what a block store puts into memory a block load through the same I brings back, whatever the registers hold
in between. -/
def Obligations.BlockStoreThenLoadRestores : Prop :=
  ∀ (x : Reg) (s t u v : State), s.i.toNat + (x.val + 1) ≤ 4096 → exec (.ldMemVx x) s = .next t →
    u.i = s.i → SameMemory t u → exec (.ldVxMem x) u = .next v → ∀ z : Reg, z ≤ x → v.reg z = s.reg z

/-- R63, R305: a block store of at least two registers is what a later fetch from the first stored address reads. -/
def Obligations.FetchSeesTheLastStore : Prop :=
  ∀ (x : Reg) (s t u : State), s.i.toNat + (x.val + 1) ≤ 4096 → 1 ≤ x.val → exec (.ldMemVx x) s = .next t →
    SameMemory t u → u.pc = s.i → u.fetchWord.toNat = (s.reg 0).toNat * 256 + (s.reg 1).toNat

/-- Canonical memories that read alike are equal data, so memory has one representation (R50, R57; the canonical form is the
model's own). -/
def Obligations.CanonicalMemoriesAreEqualByReading : Prop :=
  ∀ (cfg : Config) (m m' : Memory), Memory.wf cfg m → Memory.wf cfg m' →
    (∀ a, a < 4096 → Memory.read cfg m a = Memory.read cfg m' a) → m = m'

/-! ### Control flow -/

/-- R170, R171 (D17, D18): the jumps change only PC; the targets are exact, odd ones and ones past 0xFFF included. -/
def Obligations.JumpResults : Prop :=
  ∀ (nnn : Addr12) (s : State),
    (∃ t, exec (.jpAddr nnn) s = .next t ∧ t.pc.toNat = nnn.toNat ∧ OnlyPc s t) ∧
    (∃ t, exec (.jpV0 nnn) s = .next t ∧ t.pc.toNat = nnn.toNat + (s.reg 0).toNat ∧ OnlyPc s t)

/-- R172 (D19): CALL pushes the return address PC + 2 and jumps; with 16 calls outstanding it raises STACK_OVERFLOW. -/
def Obligations.CallPushesTheReturnAddress : Prop :=
  ∀ (nnn : Addr12) (s : State),
    (s.sp.val < 16 → ∃ t, exec (.callAddr nnn) s = .next t ∧ t.pc.toNat = nnn.toNat ∧ t.sp.val = s.sp.val + 1 ∧
      t.stack[s.sp.val]? = some (s.pc + 2) ∧ (∀ j, j ≠ s.sp.val → t.stack[j]? = s.stack[j]?) ∧
      SameRegs [] s t ∧ SameMemory s t ∧ SameIndex s t ∧ SameTimers s t ∧ SameDisplay s t ∧ SameHost s t ∧
      t.mode = s.mode) ∧
    (s.sp.val = 16 → ∃ t, exec (.callAddr nnn) s = .next t ∧ OnlyMode s t ∧
      t.mode = .halted (.error (.boundsError .stackOverflow s.pc (some (encode (.callAddr nnn))) 16)))

/-- R173 (D19): RET pops PC and keeps every slot; with no call outstanding it raises STACK_UNDERFLOW. -/
def Obligations.ReturnPopsPc : Prop :=
  ∀ (u : Nibble) (s : State),
    (0 < s.sp.val → ∃ t, exec (.ret u) s = .next t ∧ s.stack[s.sp.val - 1]? = some t.pc ∧ t.sp.val + 1 = s.sp.val ∧
      t.stack = s.stack ∧ SameRegs [] s t ∧ SameMemory s t ∧ SameIndex s t ∧ SameTimers s t ∧ SameDisplay s t ∧
      SameHost s t ∧ t.mode = s.mode) ∧
    (s.sp.val = 0 → ∃ t, exec (.ret u) s = .next t ∧ OnlyMode s t ∧
      t.mode = .halted (.error (.boundsError .stackUnderflow s.pc (some (encode (.ret u))) 0)))

/-- R181: CALL at p, then RET at its target, as two steps of the machine: PC = p + 2, SP as before the call, and the slot
holds p + 2. -/
def Obligations.CallThenReturnRestoresPc : Prop :=
  ∀ (s : State) (nnn : Addr12) (u : Nibble) (input : HostInput) (rest : List HostInput),
    s.mode = .running → s.quitIn = false → s.hostQueue = input :: rest → input.quit = false →
    s.pc.toNat + 2 ≤ 4096 → nnn.toNat + 2 ≤ 4096 → s.sp.val < 16 →
    decode s.cfg s.fetchWord = .ok (.callAddr nnn) →
    decode s.cfg (wordOfBytes (s.readByte nnn.toNat) (s.readByte (nnn.toNat + 1))) = .ok (.ret u) →
    ∃ t : State, Host.Core.run core 2 s = .next t ∧ t.pc = s.pc + 2 ∧ t.sp = s.sp ∧
      t.stack[s.sp.val]? = some (s.pc + 2) ∧ t.mode = .running

/-- R174, R175: the skips on an immediate change only PC: by 4 when the condition holds, else by 2. (The encoding clauses:
log entry 10.) -/
def Obligations.ImmediateSkipsResult : Prop :=
  ∀ (x : Reg) (kk : Byte) (s : State),
    (encode (.seByte x kk)).toNat = 0x3000 + x.val * 0x100 + kk.toNat ∧
    (encode (.sneByte x kk)).toNat = 0x4000 + x.val * 0x100 + kk.toNat ∧
    (∃ t, exec (.seByte x kk) s = .next t ∧ OnlyPc s t ∧ t.pc = if s.reg x = kk then s.pc + 4 else s.pc + 2) ∧
    (∃ t, exec (.sneByte x kk) s = .next t ∧ OnlyPc s t ∧ t.pc = if s.reg x = kk then s.pc + 2 else s.pc + 4)

/-- R176, R177 (D7): the skips on two registers, whatever the ignored low nibble. -/
def Obligations.RegisterSkipsResult : Prop :=
  ∀ (x y : Reg) (u : Nibble) (s : State),
    (∃ t, exec (.seReg x y u) s = .next t ∧ OnlyPc s t ∧ t.pc = if s.reg x = s.reg y then s.pc + 4 else s.pc + 2) ∧
    (∃ t, exec (.sneReg x y u) s = .next t ∧ OnlyPc s t ∧ t.pc = if s.reg x = s.reg y then s.pc + 2 else s.pc + 4)

/-- R178, R179 (D14): the key skips read the latch at the key V[x] names, change only PC, and raise KEY_INDEX when V[x] is
above 15. -/
def Obligations.KeySkipsResult : Prop :=
  ∀ (x : Reg) (s : State),
    ((s.reg x).toNat ≤ 15 →
      (∃ t, exec (.skp x) s = .next t ∧ OnlyPc s t ∧
        t.pc = if s.key.getLsbD (s.reg x).toNat then s.pc + 4 else s.pc + 2) ∧
      (∃ t, exec (.sknp x) s = .next t ∧ OnlyPc s t ∧
        t.pc = if s.key.getLsbD (s.reg x).toNat then s.pc + 2 else s.pc + 4)) ∧
    (15 < (s.reg x).toNat →
      (∃ t, exec (.skp x) s = .next t ∧ OnlyMode s t ∧
        t.mode = .halted (.error (.boundsError .keyIndex s.pc (some (encode (.skp x))) (s.reg x).toNat))) ∧
      (∃ t, exec (.sknp x) s = .next t ∧ OnlyMode s t ∧
        t.mode = .halted (.error (.boundsError .keyIndex s.pc (some (encode (.sknp x))) (s.reg x).toNat))))

/-! ### Display -/

/-- R200, R201, R204: a DRW in range completes and toggles exactly the pixels ((V[x] + c) mod 64, (V[y] + r) mod 32) of the set
bits of the sprite at I: a torus, nothing clipped, nothing else touched. That the sprite lies at I is the spec's general
knowledge (G6), and that n = 0 completes and draws nothing is its decision D15 (log entry 16). -/
def Obligations.DrawTogglesCoveredPixelsOnTheTorus : Prop :=
  ∀ (x y : Reg) (n : Nibble) (s : State), DrawInRange s n →
    ∃ t, exec (.drw x y n) s = .next t ∧
      ∀ (r : Fin 32) (c : Fin 64),
        (SpriteCovers s x y n r c → t.pixel r c = !s.pixel r c) ∧ (¬ SpriteCovers s x y n r c → t.pixel r c = s.pixel r c)

/-- R202: VF after a DRW that does not fault is 1 if at least one pixel went from set to unset, and 0 otherwise. -/
def Obligations.DrawReportsCollision : Prop :=
  ∀ (x y : Reg) (n : Nibble) (s t : State), DrawInRange s n → exec (.drw x y n) s = .next t →
    ((∃ r c, s.pixel r c = true ∧ t.pixel r c = false) → t.reg Reg.vF = 1) ∧
    ((∀ r c, s.pixel r c = true → t.pixel r c = true) → t.reg Reg.vF = 0)

/-- R200, R203, R204 (D15, D16): DRW's frame: only the bitmap, the dirty flag (set even when no pixel changes), VF and PC; and
past the end of memory only the mode. Zero rows never fault. -/
def Obligations.DrawFrame : Prop :=
  ∀ (x y : Reg) (n : Nibble) (s : State),
    (DrawInRange s n → ∃ t, exec (.drw x y n) s = .next t ∧ t.dirty = true ∧ t.pc = s.pc + 2 ∧ t.mode = s.mode ∧
      SameRegs [Reg.vF] s t ∧ SameMemory s t ∧ SameIndex s t ∧ SameStack s t ∧ SameTimers s t ∧ SameHost s t ∧
      (n = 0 → t.disp = s.disp ∧ t.reg Reg.vF = 0)) ∧
    (¬ DrawInRange s n → ∃ t, exec (.drw x y n) s = .next t ∧ OnlyMode s t ∧
      t.mode = .halted (.error (.boundsError .mem s.pc (some (encode (.drw x y n))) (max s.i.toNat 0x1000))))

/-- R208 as R200 and R202 give it: drawing the same sprite at the same place twice restores the bitmap, and the second draw
reports a collision exactly when the first one set a pixel. R208's own second sentence ("exactly when the sprite has at least
one set bit") is the case of a first draw without a collision (log entry 12). x and y are not F, since the first draw writes
VF; neither draw faults; memory, I, V[x] and V[y] are unchanged between the two. -/
def Obligations.DrawTwiceRestoresTheBitmap : Prop :=
  ∀ (x y : Reg) (n : Nibble) (s t u v : State), x ≠ Reg.vF → y ≠ Reg.vF → DrawInRange s n →
    exec (.drw x y n) s = .next t →
    u.disp = t.disp → u.i = t.i → SameMemory t u → u.reg x = t.reg x → u.reg y = t.reg y →
    exec (.drw x y n) u = .next v →
    v.disp = s.disp ∧
    (v.reg Reg.vF = 1 ↔ ∃ r c, SpriteCovers s x y n r c ∧ s.pixel r c = false) ∧
    (t.reg Reg.vF = 0 → (v.reg Reg.vF = 1 ↔ ∃ r c, SpriteCovers s x y n r c))

/-- R205 (D6): CLS unsets every pixel and marks the display dirty; VF is unchanged; where it does not exist its word has no
handler. The first clause has no premise on `CLS_PRESENT`: that `exec` clears the screen there too is the model's choice (log
entry 13), and no step reaches it, since the word does not decode. -/
def Obligations.ClearScreenResult : Prop :=
  ∀ (u : Nibble) (s : State),
    (∃ t, exec (.cls u) s = .next t ∧ (∀ r c, t.pixel r c = false) ∧ t.dirty = true ∧ t.pc = s.pc + 2 ∧
      t.mode = s.mode ∧ SameRegs [] s t ∧ SameMemory s t ∧ SameIndex s t ∧ SameStack s t ∧ SameTimers s t ∧
      SameHost s t) ∧
    (s.cfg.clsPresent = true → decode s.cfg (encode (.cls u)) = .ok (.cls u)) ∧
    (s.cfg.clsPresent = false → decode s.cfg (encode (.cls u)) = .error (.illegal (encode (.cls u))))

/-! ### Timers and keys -/

/-- R233, R234, R235 (D5): the timer instructions move one byte between V[x] and a timer and change nothing else; a write
requests no sound. -/
def Obligations.TimerInstructionsResult : Prop :=
  ∀ (x : Reg) (s : State),
    (∃ t, exec (.ldVxDT x) s = .next t ∧ t.reg x = s.dt ∧ t.pc = s.pc + 2 ∧ OnlyRegs [x] s t) ∧
    (∃ t, exec (.ldDTVx x) s = .next t ∧ t.dt = s.reg x ∧ t.st = s.st ∧ t.pc = s.pc + 2 ∧ t.mode = s.mode ∧
      SameRegs [] s t ∧ SameMemory s t ∧ SameIndex s t ∧ SameStack s t ∧ SameDisplay s t ∧ SameHost s t) ∧
    (∃ t, exec (.ldSTVx x) s = .next t ∧ t.st = s.reg x ∧ t.dt = s.dt ∧ t.pc = s.pc + 2 ∧ t.mode = s.mode ∧
      SameRegs [] s t ∧ SameMemory s t ∧ SameIndex s t ∧ SameStack s t ∧ SameDisplay s t ∧ SameHost s t)

/-- R241, R242 (D25): LD Vx, K stores the lowest pressed key and advances; with no key pressed it enters AwaitingKey(x) and
changes nothing else. -/
def Obligations.WaitForKeyResult : Prop :=
  ∀ (x : Reg) (s : State),
    (∀ k : Fin 16, s.key.getLsbD k.val = true → (∀ j : Fin 16, j < k → s.key.getLsbD j.val = false) →
      ∃ t, exec (.ldVxK x) s = .next t ∧ (t.reg x).toNat = k.val ∧ t.pc = s.pc + 2 ∧ OnlyRegs [x] s t) ∧
    (s.key = 0 → ∃ t, exec (.ldVxK x) s = .next t ∧ t.mode = .awaitingKey x ∧ OnlyMode s t)

/-- R303, R304: a timer written in phase 2 is decremented in phase 3 of the same step: LD DT, Vx with V[x] = d leaves d - 1,
and LD ST, Vx requests the sound in that step exactly when V[x] = 1. -/
def Obligations.TimerWriteTicksInTheSameCycle : Prop :=
  ∀ (s : State) (x : Reg), s.mode = .running → s.quitIn = false → s.pc.toNat + 2 ≤ 4096 →
    (decode s.cfg s.fetchWord = .ok (.ldDTVx x) →
      ∃ t, step s = .next t ∧ t.dt.toNat = (s.reg x).toNat - 1 ∧ t.pc = s.pc + 2) ∧
    (decode s.cfg s.fetchWord = .ok (.ldSTVx x) →
      ∃ t, step s = .next t ∧ t.st.toNat = (s.reg x).toNat - 1 ∧ (t.soundReq = true ↔ (s.reg x).toNat = 1) ∧
        t.pc = s.pc + 2)

/-- R243, R244 (D24): a wait iteration with no key changes nothing but the latch; one with a key stores the lowest, moves PC
past the Fx0A, resumes, and ticks once. -/
def Obligations.WaitIterationResult : Prop :=
  ∀ (s : State) (x : Reg), s.mode = .awaitingKey x → s.quitIn = false →
    (s.keysIn = 0 → ∃ t, step s = .next t ∧ t.mode = .awaitingKey x ∧ t.key = 0 ∧ ProgramStateSame s t ∧
      t.presentReq = false ∧ t.soundReq = false) ∧
    (∀ k : Fin 16, s.keysIn.getLsbD k.val = true → (∀ j : Fin 16, j < k → s.keysIn.getLsbD j.val = false) →
      ∃ t, step s = .next t ∧ t.mode = .running ∧ t.key = s.keysIn ∧ (t.reg x).toNat = k.val ∧ SameRegs [x] s t ∧
        t.pc = s.pc + 2 ∧ t.dt.toNat = s.dt.toNat - 1 ∧ t.st.toNat = s.st.toNat - 1 ∧
        (t.soundReq = true ↔ s.st.toNat = 1) ∧ t.presentReq = s.dirty ∧ t.dirty = false ∧
        SameMemory s t ∧ SameIndex s t ∧ SameStack s t ∧ t.disp = s.disp)

/-- R247: Fx0A at PC with no key pressed, then any number of polls with no key, then one with keys down of which `k` is the
lowest: PC and the timers stand still until then, and that poll sets V[x] = k, PC + 2 and ticks once. The host's inputs are
the port of the first step and then `hostQueue` (log entry 2). -/
def Obligations.KeyWaitScenario : Prop :=
  ∀ (s : State) (x : Reg) (polls : List HostInput) (last : HostInput) (rest : List HostInput) (k : Fin 16),
    s.mode = .running → s.quitIn = false → s.keysIn = 0 → s.pc.toNat + 2 ≤ 4096 →
    decode s.cfg s.fetchWord = .ok (.ldVxK x) →
    s.hostQueue = polls ++ last :: rest → (∀ p ∈ polls, p.keys = 0 ∧ p.quit = false) → last.quit = false →
    last.keys.getLsbD k.val = true → (∀ j : Fin 16, j < k → last.keys.getLsbD j.val = false) →
    (∀ m, m ≤ polls.length → ∃ t : State, Host.Core.run core (m + 1) s = .next t ∧ t.mode = .awaitingKey x ∧
      t.pc = s.pc ∧ SameTimers s t ∧ SameRegs [] s t) ∧
    (∃ t : State, Host.Core.run core (polls.length + 2) s = .next t ∧ t.mode = .running ∧ t.pc = s.pc + 2 ∧
      (t.reg x).toNat = k.val ∧ t.dt.toNat = s.dt.toNat - 1 ∧ t.st.toNat = s.st.toNat - 1)

/-! ### Startup and the whole machine -/

/-- R290, R291, R65: the state at startup in every configuration: memory zeroed but for the font at `FONT_BASE`, registers,
stack and timers zeroed, PC at 0x200, Running. The blank display, the clean flag and the released keys are D20 (log
entry 6). -/
def Obligations.StartupState : Prop :=
  State.reset = State.startup Config.standard ∧
  ∀ cfg : Config,
    (∀ a : Nat, a < 80 → (State.startup cfg).readByte (cfg.fontBase.val + a) = cfg.font[a]?.getD 0) ∧
    (∀ a : Nat, (a < cfg.fontBase.val ∨ cfg.fontBase.val + 80 ≤ a) → (State.startup cfg).readByte a = 0) ∧
    (∀ x : Reg, (State.startup cfg).reg x = 0) ∧ (∀ j : Fin 16, (State.startup cfg).stack[j] = 0) ∧
    (State.startup cfg).i = 0 ∧ (State.startup cfg).pc = 0x200 ∧ (State.startup cfg).sp.val = 0 ∧
    (State.startup cfg).dt = 0 ∧ (State.startup cfg).st = 0 ∧ (∀ r c, (State.startup cfg).pixel r c = false) ∧
    (State.startup cfg).dirty = false ∧ (State.startup cfg).key = 0 ∧ (State.startup cfg).mode = .running

/-- R293 (D27): a program of at most 3584 bytes lies at 0x200 after the load and the rest of the state is untouched; a longer
one is a LoadError, and the machine never starts. -/
def Obligations.ProgramLoadResult : Prop :=
  ∀ (program : List Byte) (s : State),
    (program.length ≤ 3584 → ∃ t, loadProgram program s = .next t ∧
      (∀ j, (h : j < program.length) → t.readByte (0x200 + j) = program[j]) ∧
      SameMemoryOutside 0x200 program.length s t ∧ SameRegs [] s t ∧ SameIndex s t ∧ SameStack s t ∧ SameTimers s t ∧
      SameDisplay s t ∧ SameHost s t ∧ t.pc = s.pc ∧ t.mode = s.mode) ∧
    (3584 < program.length → loadProgram program s = .refused (.loadError program.length))

/-- R144, R243, R308: the random input reaches nothing but RND: a step that does not fetch an RND ends in the same state
whatever `rnd_in` is. The next states are equal, `rndIn` too, because the host's next inputs replace the port after every step
(`hostActs`, the model's boundary, log entry 2). -/
def Obligations.RandomInputReachesOnlyRnd : Prop :=
  ∀ (s : State) (b : Byte),
    (s.mode = .running → ∀ x kk, decode s.cfg s.fetchWord ≠ .ok (.rnd x kk)) → step { s with rndIn := b } = step s

/-- R24, R25, R27, R28, R29, R50: who writes what, over all instructions: I, the stack, SP, each timer, the bitmap with its
dirty flag, and memory. -/
def Obligations.EachPartIsWrittenOnlyByItsInstructions : Prop :=
  ∀ (i : Instr) (s t : State), exec i s = .next t →
    (t.i ≠ s.i → (∃ nnn, i = .ldI nnn) ∨ (∃ x, i = .addIVx x) ∨ (∃ x, i = .ldFVx x) ∨
      (s.cfg.loadStoreIncrementsI = true ∧ ∃ x, i = .ldMemVx x ∨ i = .ldVxMem x)) ∧
    (t.stack ≠ s.stack → ∃ nnn, i = .callAddr nnn) ∧
    (t.sp ≠ s.sp → (∃ nnn, i = .callAddr nnn) ∨ ∃ u, i = .ret u) ∧
    (t.dt ≠ s.dt → ∃ x, i = .ldDTVx x) ∧ (t.st ≠ s.st → ∃ x, i = .ldSTVx x) ∧
    (t.disp ≠ s.disp ∨ t.dirty ≠ s.dirty → (∃ x y n, i = .drw x y n) ∨ ∃ u, i = .cls u) ∧
    (t.mem ≠ s.mem → ∃ x, i = .ldBVx x ∨ i = .ldMemVx x)

/-- R87, R103, R180: there are no pseudo-instructions, and data bytes are decoded only where control reaches them. A word that
decodes is an instruction of a row of the opcode table; a step ends in DecodeError exactly when the two bytes at its own PC
are an illegal word; a byte stored anywhere else leaves the fetched word as it is; and a skip goes on by the table of R104, past the two bytes
after it when it is taken, whatever they hold. -/
def Obligations.DataIsDecodedOnlyWhereControlReachesIt : Prop :=
  (∀ (cfg : Config) (w : Word) (i : Instr), decode cfg w = .ok i → i.opRow ∈ opcodeTable) ∧
  (∀ (s t : State), step s = .next t → ∀ pc word : Word,
    t.mode = .halted (.error (.decodeError pc word)) ↔
      s.mode = .running ∧ s.quitIn = false ∧ s.pc.toNat + 2 ≤ 4096 ∧ pc = s.pc ∧ word = s.fetchWord ∧
        IllegalWord s.cfg s.fetchWord) ∧
  (∀ (s : State) (a : Nat) (b : Byte), a ≠ s.pc.toNat → a ≠ s.pc.toNat + 1 →
    (s.writeByte a b).fetchWord = s.fetchWord) ∧
  (∀ (s : State) (i : Instr) (data data' : Byte), s.mode = .running → s.quitIn = false → s.pc.toNat + 4 ≤ 4096 →
    decode s.cfg s.fetchWord = .ok i → isSkip i = true → errorOf i (phase2State s) = none →
    ∃ t, step (s.writeBytes (s.pc.toNat + 2) [data, data']) = .next t ∧ t.mode = .running ∧
      t.pc.toNat = pcAfter i (phase2State s))
end

