-- ==== Sys2Proof/Laws/State.lean ====
section
/-! SUPPORT. What each update of the state does to each field, one lemma a field, so that no proof unfolds a record update. -/

namespace Sys2Proof.Machine

variable (s : State)

/-! ### `setReg` -/

@[simp] theorem State.setReg_cfg (x : Reg) (b : Byte) : (s.setReg x b).cfg = s.cfg := rfl
@[simp] theorem State.setReg_mem (x : Reg) (b : Byte) : (s.setReg x b).mem = s.mem := rfl
@[simp] theorem State.setReg_v (x : Reg) (b : Byte) : (s.setReg x b).v = s.v.set x b := rfl
@[simp] theorem State.setReg_i (x : Reg) (b : Byte) : (s.setReg x b).i = s.i := rfl
@[simp] theorem State.setReg_pc (x : Reg) (b : Byte) : (s.setReg x b).pc = s.pc := rfl
@[simp] theorem State.setReg_stack (x : Reg) (b : Byte) : (s.setReg x b).stack = s.stack := rfl
@[simp] theorem State.setReg_sp (x : Reg) (b : Byte) : (s.setReg x b).sp = s.sp := rfl
@[simp] theorem State.setReg_dt (x : Reg) (b : Byte) : (s.setReg x b).dt = s.dt := rfl
@[simp] theorem State.setReg_st (x : Reg) (b : Byte) : (s.setReg x b).st = s.st := rfl
@[simp] theorem State.setReg_disp (x : Reg) (b : Byte) : (s.setReg x b).disp = s.disp := rfl
@[simp] theorem State.setReg_dirty (x : Reg) (b : Byte) : (s.setReg x b).dirty = s.dirty := rfl
@[simp] theorem State.setReg_key (x : Reg) (b : Byte) : (s.setReg x b).key = s.key := rfl
@[simp] theorem State.setReg_mode (x : Reg) (b : Byte) : (s.setReg x b).mode = s.mode := rfl
@[simp] theorem State.setReg_presentReq (x : Reg) (b : Byte) : (s.setReg x b).presentReq = s.presentReq := rfl
@[simp] theorem State.setReg_soundReq (x : Reg) (b : Byte) : (s.setReg x b).soundReq = s.soundReq := rfl
@[simp] theorem State.setReg_keysIn (x : Reg) (b : Byte) : (s.setReg x b).keysIn = s.keysIn := rfl
@[simp] theorem State.setReg_quitIn (x : Reg) (b : Byte) : (s.setReg x b).quitIn = s.quitIn := rfl
@[simp] theorem State.setReg_rndIn (x : Reg) (b : Byte) : (s.setReg x b).rndIn = s.rndIn := rfl
@[simp] theorem State.setReg_hostQueue (x : Reg) (b : Byte) : (s.setReg x b).hostQueue = s.hostQueue := rfl
@[simp] theorem State.setReg_drawCount (x : Reg) (b : Byte) : (s.setReg x b).drawCount = s.drawCount := rfl

/-! ### `setI` -/

@[simp] theorem State.setI_cfg (w : Word) : (s.setI w).cfg = s.cfg := rfl
@[simp] theorem State.setI_mem (w : Word) : (s.setI w).mem = s.mem := rfl
@[simp] theorem State.setI_v (w : Word) : (s.setI w).v = s.v := rfl
@[simp] theorem State.setI_i (w : Word) : (s.setI w).i = w := rfl
@[simp] theorem State.setI_pc (w : Word) : (s.setI w).pc = s.pc := rfl
@[simp] theorem State.setI_stack (w : Word) : (s.setI w).stack = s.stack := rfl
@[simp] theorem State.setI_sp (w : Word) : (s.setI w).sp = s.sp := rfl
@[simp] theorem State.setI_dt (w : Word) : (s.setI w).dt = s.dt := rfl
@[simp] theorem State.setI_st (w : Word) : (s.setI w).st = s.st := rfl
@[simp] theorem State.setI_disp (w : Word) : (s.setI w).disp = s.disp := rfl
@[simp] theorem State.setI_dirty (w : Word) : (s.setI w).dirty = s.dirty := rfl
@[simp] theorem State.setI_key (w : Word) : (s.setI w).key = s.key := rfl
@[simp] theorem State.setI_mode (w : Word) : (s.setI w).mode = s.mode := rfl
@[simp] theorem State.setI_presentReq (w : Word) : (s.setI w).presentReq = s.presentReq := rfl
@[simp] theorem State.setI_soundReq (w : Word) : (s.setI w).soundReq = s.soundReq := rfl
@[simp] theorem State.setI_keysIn (w : Word) : (s.setI w).keysIn = s.keysIn := rfl
@[simp] theorem State.setI_quitIn (w : Word) : (s.setI w).quitIn = s.quitIn := rfl
@[simp] theorem State.setI_rndIn (w : Word) : (s.setI w).rndIn = s.rndIn := rfl
@[simp] theorem State.setI_hostQueue (w : Word) : (s.setI w).hostQueue = s.hostQueue := rfl
@[simp] theorem State.setI_drawCount (w : Word) : (s.setI w).drawCount = s.drawCount := rfl

/-! ### `setPc` -/

@[simp] theorem State.setPc_cfg (w : Word) : (s.setPc w).cfg = s.cfg := rfl
@[simp] theorem State.setPc_mem (w : Word) : (s.setPc w).mem = s.mem := rfl
@[simp] theorem State.setPc_v (w : Word) : (s.setPc w).v = s.v := rfl
@[simp] theorem State.setPc_i (w : Word) : (s.setPc w).i = s.i := rfl
@[simp] theorem State.setPc_pc (w : Word) : (s.setPc w).pc = w := rfl
@[simp] theorem State.setPc_stack (w : Word) : (s.setPc w).stack = s.stack := rfl
@[simp] theorem State.setPc_sp (w : Word) : (s.setPc w).sp = s.sp := rfl
@[simp] theorem State.setPc_dt (w : Word) : (s.setPc w).dt = s.dt := rfl
@[simp] theorem State.setPc_st (w : Word) : (s.setPc w).st = s.st := rfl
@[simp] theorem State.setPc_disp (w : Word) : (s.setPc w).disp = s.disp := rfl
@[simp] theorem State.setPc_dirty (w : Word) : (s.setPc w).dirty = s.dirty := rfl
@[simp] theorem State.setPc_key (w : Word) : (s.setPc w).key = s.key := rfl
@[simp] theorem State.setPc_mode (w : Word) : (s.setPc w).mode = s.mode := rfl
@[simp] theorem State.setPc_presentReq (w : Word) : (s.setPc w).presentReq = s.presentReq := rfl
@[simp] theorem State.setPc_soundReq (w : Word) : (s.setPc w).soundReq = s.soundReq := rfl
@[simp] theorem State.setPc_keysIn (w : Word) : (s.setPc w).keysIn = s.keysIn := rfl
@[simp] theorem State.setPc_quitIn (w : Word) : (s.setPc w).quitIn = s.quitIn := rfl
@[simp] theorem State.setPc_rndIn (w : Word) : (s.setPc w).rndIn = s.rndIn := rfl
@[simp] theorem State.setPc_hostQueue (w : Word) : (s.setPc w).hostQueue = s.hostQueue := rfl
@[simp] theorem State.setPc_drawCount (w : Word) : (s.setPc w).drawCount = s.drawCount := rfl

/-! ### `advance` -/

@[simp] theorem State.advance_cfg : (s.advance).cfg = s.cfg := rfl
@[simp] theorem State.advance_mem : (s.advance).mem = s.mem := rfl
@[simp] theorem State.advance_v : (s.advance).v = s.v := rfl
@[simp] theorem State.advance_i : (s.advance).i = s.i := rfl
@[simp] theorem State.advance_pc : (s.advance).pc = s.pc + 2 := rfl
@[simp] theorem State.advance_stack : (s.advance).stack = s.stack := rfl
@[simp] theorem State.advance_sp : (s.advance).sp = s.sp := rfl
@[simp] theorem State.advance_dt : (s.advance).dt = s.dt := rfl
@[simp] theorem State.advance_st : (s.advance).st = s.st := rfl
@[simp] theorem State.advance_disp : (s.advance).disp = s.disp := rfl
@[simp] theorem State.advance_dirty : (s.advance).dirty = s.dirty := rfl
@[simp] theorem State.advance_key : (s.advance).key = s.key := rfl
@[simp] theorem State.advance_mode : (s.advance).mode = s.mode := rfl
@[simp] theorem State.advance_presentReq : (s.advance).presentReq = s.presentReq := rfl
@[simp] theorem State.advance_soundReq : (s.advance).soundReq = s.soundReq := rfl
@[simp] theorem State.advance_keysIn : (s.advance).keysIn = s.keysIn := rfl
@[simp] theorem State.advance_quitIn : (s.advance).quitIn = s.quitIn := rfl
@[simp] theorem State.advance_rndIn : (s.advance).rndIn = s.rndIn := rfl
@[simp] theorem State.advance_hostQueue : (s.advance).hostQueue = s.hostQueue := rfl
@[simp] theorem State.advance_drawCount : (s.advance).drawCount = s.drawCount := rfl

/-! ### `skipIf` -/

@[simp] theorem State.skipIf_cfg (c : Bool) : (s.skipIf c).cfg = s.cfg := rfl
@[simp] theorem State.skipIf_mem (c : Bool) : (s.skipIf c).mem = s.mem := rfl
@[simp] theorem State.skipIf_v (c : Bool) : (s.skipIf c).v = s.v := rfl
@[simp] theorem State.skipIf_i (c : Bool) : (s.skipIf c).i = s.i := rfl
@[simp] theorem State.skipIf_pc (c : Bool) : (s.skipIf c).pc = s.pc + if c then 4 else 2 := rfl
@[simp] theorem State.skipIf_stack (c : Bool) : (s.skipIf c).stack = s.stack := rfl
@[simp] theorem State.skipIf_sp (c : Bool) : (s.skipIf c).sp = s.sp := rfl
@[simp] theorem State.skipIf_dt (c : Bool) : (s.skipIf c).dt = s.dt := rfl
@[simp] theorem State.skipIf_st (c : Bool) : (s.skipIf c).st = s.st := rfl
@[simp] theorem State.skipIf_disp (c : Bool) : (s.skipIf c).disp = s.disp := rfl
@[simp] theorem State.skipIf_dirty (c : Bool) : (s.skipIf c).dirty = s.dirty := rfl
@[simp] theorem State.skipIf_key (c : Bool) : (s.skipIf c).key = s.key := rfl
@[simp] theorem State.skipIf_mode (c : Bool) : (s.skipIf c).mode = s.mode := rfl
@[simp] theorem State.skipIf_presentReq (c : Bool) : (s.skipIf c).presentReq = s.presentReq := rfl
@[simp] theorem State.skipIf_soundReq (c : Bool) : (s.skipIf c).soundReq = s.soundReq := rfl
@[simp] theorem State.skipIf_keysIn (c : Bool) : (s.skipIf c).keysIn = s.keysIn := rfl
@[simp] theorem State.skipIf_quitIn (c : Bool) : (s.skipIf c).quitIn = s.quitIn := rfl
@[simp] theorem State.skipIf_rndIn (c : Bool) : (s.skipIf c).rndIn = s.rndIn := rfl
@[simp] theorem State.skipIf_hostQueue (c : Bool) : (s.skipIf c).hostQueue = s.hostQueue := rfl
@[simp] theorem State.skipIf_drawCount (c : Bool) : (s.skipIf c).drawCount = s.drawCount := rfl

/-! ### `writeByte` -/

@[simp] theorem State.writeByte_cfg (a : Nat) (b : Byte) : (s.writeByte a b).cfg = s.cfg := rfl
@[simp] theorem State.writeByte_mem (a : Nat) (b : Byte) : (s.writeByte a b).mem = Memory.write s.cfg s.mem a b := rfl
@[simp] theorem State.writeByte_v (a : Nat) (b : Byte) : (s.writeByte a b).v = s.v := rfl
@[simp] theorem State.writeByte_i (a : Nat) (b : Byte) : (s.writeByte a b).i = s.i := rfl
@[simp] theorem State.writeByte_pc (a : Nat) (b : Byte) : (s.writeByte a b).pc = s.pc := rfl
@[simp] theorem State.writeByte_stack (a : Nat) (b : Byte) : (s.writeByte a b).stack = s.stack := rfl
@[simp] theorem State.writeByte_sp (a : Nat) (b : Byte) : (s.writeByte a b).sp = s.sp := rfl
@[simp] theorem State.writeByte_dt (a : Nat) (b : Byte) : (s.writeByte a b).dt = s.dt := rfl
@[simp] theorem State.writeByte_st (a : Nat) (b : Byte) : (s.writeByte a b).st = s.st := rfl
@[simp] theorem State.writeByte_disp (a : Nat) (b : Byte) : (s.writeByte a b).disp = s.disp := rfl
@[simp] theorem State.writeByte_dirty (a : Nat) (b : Byte) : (s.writeByte a b).dirty = s.dirty := rfl
@[simp] theorem State.writeByte_key (a : Nat) (b : Byte) : (s.writeByte a b).key = s.key := rfl
@[simp] theorem State.writeByte_mode (a : Nat) (b : Byte) : (s.writeByte a b).mode = s.mode := rfl
@[simp] theorem State.writeByte_presentReq (a : Nat) (b : Byte) : (s.writeByte a b).presentReq = s.presentReq := rfl
@[simp] theorem State.writeByte_soundReq (a : Nat) (b : Byte) : (s.writeByte a b).soundReq = s.soundReq := rfl
@[simp] theorem State.writeByte_keysIn (a : Nat) (b : Byte) : (s.writeByte a b).keysIn = s.keysIn := rfl
@[simp] theorem State.writeByte_quitIn (a : Nat) (b : Byte) : (s.writeByte a b).quitIn = s.quitIn := rfl
@[simp] theorem State.writeByte_rndIn (a : Nat) (b : Byte) : (s.writeByte a b).rndIn = s.rndIn := rfl
@[simp] theorem State.writeByte_hostQueue (a : Nat) (b : Byte) : (s.writeByte a b).hostQueue = s.hostQueue := rfl
@[simp] theorem State.writeByte_drawCount (a : Nat) (b : Byte) : (s.writeByte a b).drawCount = s.drawCount := rfl

/-! ### `halt` -/

@[simp] theorem State.halt_cfg (r : HaltReason) : (s.halt r).cfg = s.cfg := rfl
@[simp] theorem State.halt_mem (r : HaltReason) : (s.halt r).mem = s.mem := rfl
@[simp] theorem State.halt_v (r : HaltReason) : (s.halt r).v = s.v := rfl
@[simp] theorem State.halt_i (r : HaltReason) : (s.halt r).i = s.i := rfl
@[simp] theorem State.halt_pc (r : HaltReason) : (s.halt r).pc = s.pc := rfl
@[simp] theorem State.halt_stack (r : HaltReason) : (s.halt r).stack = s.stack := rfl
@[simp] theorem State.halt_sp (r : HaltReason) : (s.halt r).sp = s.sp := rfl
@[simp] theorem State.halt_dt (r : HaltReason) : (s.halt r).dt = s.dt := rfl
@[simp] theorem State.halt_st (r : HaltReason) : (s.halt r).st = s.st := rfl
@[simp] theorem State.halt_disp (r : HaltReason) : (s.halt r).disp = s.disp := rfl
@[simp] theorem State.halt_dirty (r : HaltReason) : (s.halt r).dirty = s.dirty := rfl
@[simp] theorem State.halt_key (r : HaltReason) : (s.halt r).key = s.key := rfl
@[simp] theorem State.halt_mode (r : HaltReason) : (s.halt r).mode = .halted r := rfl
@[simp] theorem State.halt_presentReq (r : HaltReason) : (s.halt r).presentReq = s.presentReq := rfl
@[simp] theorem State.halt_soundReq (r : HaltReason) : (s.halt r).soundReq = s.soundReq := rfl
@[simp] theorem State.halt_keysIn (r : HaltReason) : (s.halt r).keysIn = s.keysIn := rfl
@[simp] theorem State.halt_quitIn (r : HaltReason) : (s.halt r).quitIn = s.quitIn := rfl
@[simp] theorem State.halt_rndIn (r : HaltReason) : (s.halt r).rndIn = s.rndIn := rfl
@[simp] theorem State.halt_hostQueue (r : HaltReason) : (s.halt r).hostQueue = s.hostQueue := rfl
@[simp] theorem State.halt_drawCount (r : HaltReason) : (s.halt r).drawCount = s.drawCount := rfl

/-! ### `push` -/

@[simp] theorem State.push_cfg (w : Word) (h : s.sp.val < Config.stackDepth) : (s.push w h).cfg = s.cfg := rfl
@[simp] theorem State.push_mem (w : Word) (h : s.sp.val < Config.stackDepth) : (s.push w h).mem = s.mem := rfl
@[simp] theorem State.push_v (w : Word) (h : s.sp.val < Config.stackDepth) : (s.push w h).v = s.v := rfl
@[simp] theorem State.push_i (w : Word) (h : s.sp.val < Config.stackDepth) : (s.push w h).i = s.i := rfl
@[simp] theorem State.push_pc (w : Word) (h : s.sp.val < Config.stackDepth) : (s.push w h).pc = s.pc := rfl
@[simp] theorem State.push_stack (w : Word) (h : s.sp.val < Config.stackDepth) : (s.push w h).stack = s.stack.set s.sp.val w h := rfl
@[simp] theorem State.push_sp (w : Word) (h : s.sp.val < Config.stackDepth) : (s.push w h).sp = ⟨s.sp.val + 1, Nat.succ_lt_succ h⟩ := rfl
@[simp] theorem State.push_dt (w : Word) (h : s.sp.val < Config.stackDepth) : (s.push w h).dt = s.dt := rfl
@[simp] theorem State.push_st (w : Word) (h : s.sp.val < Config.stackDepth) : (s.push w h).st = s.st := rfl
@[simp] theorem State.push_disp (w : Word) (h : s.sp.val < Config.stackDepth) : (s.push w h).disp = s.disp := rfl
@[simp] theorem State.push_dirty (w : Word) (h : s.sp.val < Config.stackDepth) : (s.push w h).dirty = s.dirty := rfl
@[simp] theorem State.push_key (w : Word) (h : s.sp.val < Config.stackDepth) : (s.push w h).key = s.key := rfl
@[simp] theorem State.push_mode (w : Word) (h : s.sp.val < Config.stackDepth) : (s.push w h).mode = s.mode := rfl
@[simp] theorem State.push_presentReq (w : Word) (h : s.sp.val < Config.stackDepth) : (s.push w h).presentReq = s.presentReq := rfl
@[simp] theorem State.push_soundReq (w : Word) (h : s.sp.val < Config.stackDepth) : (s.push w h).soundReq = s.soundReq := rfl
@[simp] theorem State.push_keysIn (w : Word) (h : s.sp.val < Config.stackDepth) : (s.push w h).keysIn = s.keysIn := rfl
@[simp] theorem State.push_quitIn (w : Word) (h : s.sp.val < Config.stackDepth) : (s.push w h).quitIn = s.quitIn := rfl
@[simp] theorem State.push_rndIn (w : Word) (h : s.sp.val < Config.stackDepth) : (s.push w h).rndIn = s.rndIn := rfl
@[simp] theorem State.push_hostQueue (w : Word) (h : s.sp.val < Config.stackDepth) : (s.push w h).hostQueue = s.hostQueue := rfl
@[simp] theorem State.push_drawCount (w : Word) (h : s.sp.val < Config.stackDepth) : (s.push w h).drawCount = s.drawCount := rfl

/-! ### `popToPc` -/

@[simp] theorem State.popToPc_cfg (h : 0 < s.sp.val) : (s.popToPc h).cfg = s.cfg := rfl
@[simp] theorem State.popToPc_mem (h : 0 < s.sp.val) : (s.popToPc h).mem = s.mem := rfl
@[simp] theorem State.popToPc_v (h : 0 < s.sp.val) : (s.popToPc h).v = s.v := rfl
@[simp] theorem State.popToPc_i (h : 0 < s.sp.val) : (s.popToPc h).i = s.i := rfl
@[simp] theorem State.popToPc_pc (h : 0 < s.sp.val) : (s.popToPc h).pc = s.stack[s.sp.val - 1]'(by have := s.sp.isLt; omega) := rfl
@[simp] theorem State.popToPc_stack (h : 0 < s.sp.val) : (s.popToPc h).stack = s.stack := rfl
@[simp] theorem State.popToPc_sp (h : 0 < s.sp.val) : (s.popToPc h).sp = ⟨s.sp.val - 1, by have := s.sp.isLt; omega⟩ := rfl
@[simp] theorem State.popToPc_dt (h : 0 < s.sp.val) : (s.popToPc h).dt = s.dt := rfl
@[simp] theorem State.popToPc_st (h : 0 < s.sp.val) : (s.popToPc h).st = s.st := rfl
@[simp] theorem State.popToPc_disp (h : 0 < s.sp.val) : (s.popToPc h).disp = s.disp := rfl
@[simp] theorem State.popToPc_dirty (h : 0 < s.sp.val) : (s.popToPc h).dirty = s.dirty := rfl
@[simp] theorem State.popToPc_key (h : 0 < s.sp.val) : (s.popToPc h).key = s.key := rfl
@[simp] theorem State.popToPc_mode (h : 0 < s.sp.val) : (s.popToPc h).mode = s.mode := rfl
@[simp] theorem State.popToPc_presentReq (h : 0 < s.sp.val) : (s.popToPc h).presentReq = s.presentReq := rfl
@[simp] theorem State.popToPc_soundReq (h : 0 < s.sp.val) : (s.popToPc h).soundReq = s.soundReq := rfl
@[simp] theorem State.popToPc_keysIn (h : 0 < s.sp.val) : (s.popToPc h).keysIn = s.keysIn := rfl
@[simp] theorem State.popToPc_quitIn (h : 0 < s.sp.val) : (s.popToPc h).quitIn = s.quitIn := rfl
@[simp] theorem State.popToPc_rndIn (h : 0 < s.sp.val) : (s.popToPc h).rndIn = s.rndIn := rfl
@[simp] theorem State.popToPc_hostQueue (h : 0 < s.sp.val) : (s.popToPc h).hostQueue = s.hostQueue := rfl
@[simp] theorem State.popToPc_drawCount (h : 0 < s.sp.val) : (s.popToPc h).drawCount = s.drawCount := rfl

/-! ### `setDT` -/

@[simp] theorem State.setDT_cfg (b : Byte) : (s.setDT b).cfg = s.cfg := rfl
@[simp] theorem State.setDT_mem (b : Byte) : (s.setDT b).mem = s.mem := rfl
@[simp] theorem State.setDT_v (b : Byte) : (s.setDT b).v = s.v := rfl
@[simp] theorem State.setDT_i (b : Byte) : (s.setDT b).i = s.i := rfl
@[simp] theorem State.setDT_pc (b : Byte) : (s.setDT b).pc = s.pc := rfl
@[simp] theorem State.setDT_stack (b : Byte) : (s.setDT b).stack = s.stack := rfl
@[simp] theorem State.setDT_sp (b : Byte) : (s.setDT b).sp = s.sp := rfl
@[simp] theorem State.setDT_dt (b : Byte) : (s.setDT b).dt = b := rfl
@[simp] theorem State.setDT_st (b : Byte) : (s.setDT b).st = s.st := rfl
@[simp] theorem State.setDT_disp (b : Byte) : (s.setDT b).disp = s.disp := rfl
@[simp] theorem State.setDT_dirty (b : Byte) : (s.setDT b).dirty = s.dirty := rfl
@[simp] theorem State.setDT_key (b : Byte) : (s.setDT b).key = s.key := rfl
@[simp] theorem State.setDT_mode (b : Byte) : (s.setDT b).mode = s.mode := rfl
@[simp] theorem State.setDT_presentReq (b : Byte) : (s.setDT b).presentReq = s.presentReq := rfl
@[simp] theorem State.setDT_soundReq (b : Byte) : (s.setDT b).soundReq = s.soundReq := rfl
@[simp] theorem State.setDT_keysIn (b : Byte) : (s.setDT b).keysIn = s.keysIn := rfl
@[simp] theorem State.setDT_quitIn (b : Byte) : (s.setDT b).quitIn = s.quitIn := rfl
@[simp] theorem State.setDT_rndIn (b : Byte) : (s.setDT b).rndIn = s.rndIn := rfl
@[simp] theorem State.setDT_hostQueue (b : Byte) : (s.setDT b).hostQueue = s.hostQueue := rfl
@[simp] theorem State.setDT_drawCount (b : Byte) : (s.setDT b).drawCount = s.drawCount := rfl

/-! ### `setST` -/

@[simp] theorem State.setST_cfg (b : Byte) : (s.setST b).cfg = s.cfg := rfl
@[simp] theorem State.setST_mem (b : Byte) : (s.setST b).mem = s.mem := rfl
@[simp] theorem State.setST_v (b : Byte) : (s.setST b).v = s.v := rfl
@[simp] theorem State.setST_i (b : Byte) : (s.setST b).i = s.i := rfl
@[simp] theorem State.setST_pc (b : Byte) : (s.setST b).pc = s.pc := rfl
@[simp] theorem State.setST_stack (b : Byte) : (s.setST b).stack = s.stack := rfl
@[simp] theorem State.setST_sp (b : Byte) : (s.setST b).sp = s.sp := rfl
@[simp] theorem State.setST_dt (b : Byte) : (s.setST b).dt = s.dt := rfl
@[simp] theorem State.setST_st (b : Byte) : (s.setST b).st = b := rfl
@[simp] theorem State.setST_disp (b : Byte) : (s.setST b).disp = s.disp := rfl
@[simp] theorem State.setST_dirty (b : Byte) : (s.setST b).dirty = s.dirty := rfl
@[simp] theorem State.setST_key (b : Byte) : (s.setST b).key = s.key := rfl
@[simp] theorem State.setST_mode (b : Byte) : (s.setST b).mode = s.mode := rfl
@[simp] theorem State.setST_presentReq (b : Byte) : (s.setST b).presentReq = s.presentReq := rfl
@[simp] theorem State.setST_soundReq (b : Byte) : (s.setST b).soundReq = s.soundReq := rfl
@[simp] theorem State.setST_keysIn (b : Byte) : (s.setST b).keysIn = s.keysIn := rfl
@[simp] theorem State.setST_quitIn (b : Byte) : (s.setST b).quitIn = s.quitIn := rfl
@[simp] theorem State.setST_rndIn (b : Byte) : (s.setST b).rndIn = s.rndIn := rfl
@[simp] theorem State.setST_hostQueue (b : Byte) : (s.setST b).hostQueue = s.hostQueue := rfl
@[simp] theorem State.setST_drawCount (b : Byte) : (s.setST b).drawCount = s.drawCount := rfl

/-! ### `setDisplay` -/

@[simp] theorem State.setDisplay_cfg (d : Display) : (s.setDisplay d).cfg = s.cfg := rfl
@[simp] theorem State.setDisplay_mem (d : Display) : (s.setDisplay d).mem = s.mem := rfl
@[simp] theorem State.setDisplay_v (d : Display) : (s.setDisplay d).v = s.v := rfl
@[simp] theorem State.setDisplay_i (d : Display) : (s.setDisplay d).i = s.i := rfl
@[simp] theorem State.setDisplay_pc (d : Display) : (s.setDisplay d).pc = s.pc := rfl
@[simp] theorem State.setDisplay_stack (d : Display) : (s.setDisplay d).stack = s.stack := rfl
@[simp] theorem State.setDisplay_sp (d : Display) : (s.setDisplay d).sp = s.sp := rfl
@[simp] theorem State.setDisplay_dt (d : Display) : (s.setDisplay d).dt = s.dt := rfl
@[simp] theorem State.setDisplay_st (d : Display) : (s.setDisplay d).st = s.st := rfl
@[simp] theorem State.setDisplay_disp (d : Display) : (s.setDisplay d).disp = d := rfl
@[simp] theorem State.setDisplay_dirty (d : Display) : (s.setDisplay d).dirty = true := rfl
@[simp] theorem State.setDisplay_key (d : Display) : (s.setDisplay d).key = s.key := rfl
@[simp] theorem State.setDisplay_mode (d : Display) : (s.setDisplay d).mode = s.mode := rfl
@[simp] theorem State.setDisplay_presentReq (d : Display) : (s.setDisplay d).presentReq = s.presentReq := rfl
@[simp] theorem State.setDisplay_soundReq (d : Display) : (s.setDisplay d).soundReq = s.soundReq := rfl
@[simp] theorem State.setDisplay_keysIn (d : Display) : (s.setDisplay d).keysIn = s.keysIn := rfl
@[simp] theorem State.setDisplay_quitIn (d : Display) : (s.setDisplay d).quitIn = s.quitIn := rfl
@[simp] theorem State.setDisplay_rndIn (d : Display) : (s.setDisplay d).rndIn = s.rndIn := rfl
@[simp] theorem State.setDisplay_hostQueue (d : Display) : (s.setDisplay d).hostQueue = s.hostQueue := rfl
@[simp] theorem State.setDisplay_drawCount (d : Display) : (s.setDisplay d).drawCount = s.drawCount := rfl

/-! ### `refreshKeys` -/

@[simp] theorem State.refreshKeys_cfg : (s.refreshKeys).cfg = s.cfg := rfl
@[simp] theorem State.refreshKeys_mem : (s.refreshKeys).mem = s.mem := rfl
@[simp] theorem State.refreshKeys_v : (s.refreshKeys).v = s.v := rfl
@[simp] theorem State.refreshKeys_i : (s.refreshKeys).i = s.i := rfl
@[simp] theorem State.refreshKeys_pc : (s.refreshKeys).pc = s.pc := rfl
@[simp] theorem State.refreshKeys_stack : (s.refreshKeys).stack = s.stack := rfl
@[simp] theorem State.refreshKeys_sp : (s.refreshKeys).sp = s.sp := rfl
@[simp] theorem State.refreshKeys_dt : (s.refreshKeys).dt = s.dt := rfl
@[simp] theorem State.refreshKeys_st : (s.refreshKeys).st = s.st := rfl
@[simp] theorem State.refreshKeys_disp : (s.refreshKeys).disp = s.disp := rfl
@[simp] theorem State.refreshKeys_dirty : (s.refreshKeys).dirty = s.dirty := rfl
@[simp] theorem State.refreshKeys_key : (s.refreshKeys).key = s.keysIn := rfl
@[simp] theorem State.refreshKeys_mode : (s.refreshKeys).mode = s.mode := rfl
@[simp] theorem State.refreshKeys_presentReq : (s.refreshKeys).presentReq = s.presentReq := rfl
@[simp] theorem State.refreshKeys_soundReq : (s.refreshKeys).soundReq = s.soundReq := rfl
@[simp] theorem State.refreshKeys_keysIn : (s.refreshKeys).keysIn = s.keysIn := rfl
@[simp] theorem State.refreshKeys_quitIn : (s.refreshKeys).quitIn = s.quitIn := rfl
@[simp] theorem State.refreshKeys_rndIn : (s.refreshKeys).rndIn = s.rndIn := rfl
@[simp] theorem State.refreshKeys_hostQueue : (s.refreshKeys).hostQueue = s.hostQueue := rfl
@[simp] theorem State.refreshKeys_drawCount : (s.refreshKeys).drawCount = s.drawCount := rfl

/-! ### `awaitKey` -/

@[simp] theorem State.awaitKey_cfg (x : Reg) : (s.awaitKey x).cfg = s.cfg := rfl
@[simp] theorem State.awaitKey_mem (x : Reg) : (s.awaitKey x).mem = s.mem := rfl
@[simp] theorem State.awaitKey_v (x : Reg) : (s.awaitKey x).v = s.v := rfl
@[simp] theorem State.awaitKey_i (x : Reg) : (s.awaitKey x).i = s.i := rfl
@[simp] theorem State.awaitKey_pc (x : Reg) : (s.awaitKey x).pc = s.pc := rfl
@[simp] theorem State.awaitKey_stack (x : Reg) : (s.awaitKey x).stack = s.stack := rfl
@[simp] theorem State.awaitKey_sp (x : Reg) : (s.awaitKey x).sp = s.sp := rfl
@[simp] theorem State.awaitKey_dt (x : Reg) : (s.awaitKey x).dt = s.dt := rfl
@[simp] theorem State.awaitKey_st (x : Reg) : (s.awaitKey x).st = s.st := rfl
@[simp] theorem State.awaitKey_disp (x : Reg) : (s.awaitKey x).disp = s.disp := rfl
@[simp] theorem State.awaitKey_dirty (x : Reg) : (s.awaitKey x).dirty = s.dirty := rfl
@[simp] theorem State.awaitKey_key (x : Reg) : (s.awaitKey x).key = s.key := rfl
@[simp] theorem State.awaitKey_mode (x : Reg) : (s.awaitKey x).mode = .awaitingKey x := rfl
@[simp] theorem State.awaitKey_presentReq (x : Reg) : (s.awaitKey x).presentReq = s.presentReq := rfl
@[simp] theorem State.awaitKey_soundReq (x : Reg) : (s.awaitKey x).soundReq = s.soundReq := rfl
@[simp] theorem State.awaitKey_keysIn (x : Reg) : (s.awaitKey x).keysIn = s.keysIn := rfl
@[simp] theorem State.awaitKey_quitIn (x : Reg) : (s.awaitKey x).quitIn = s.quitIn := rfl
@[simp] theorem State.awaitKey_rndIn (x : Reg) : (s.awaitKey x).rndIn = s.rndIn := rfl
@[simp] theorem State.awaitKey_hostQueue (x : Reg) : (s.awaitKey x).hostQueue = s.hostQueue := rfl
@[simp] theorem State.awaitKey_drawCount (x : Reg) : (s.awaitKey x).drawCount = s.drawCount := rfl

/-! ### `resume` -/

@[simp] theorem State.resume_cfg : (s.resume).cfg = s.cfg := rfl
@[simp] theorem State.resume_mem : (s.resume).mem = s.mem := rfl
@[simp] theorem State.resume_v : (s.resume).v = s.v := rfl
@[simp] theorem State.resume_i : (s.resume).i = s.i := rfl
@[simp] theorem State.resume_pc : (s.resume).pc = s.pc := rfl
@[simp] theorem State.resume_stack : (s.resume).stack = s.stack := rfl
@[simp] theorem State.resume_sp : (s.resume).sp = s.sp := rfl
@[simp] theorem State.resume_dt : (s.resume).dt = s.dt := rfl
@[simp] theorem State.resume_st : (s.resume).st = s.st := rfl
@[simp] theorem State.resume_disp : (s.resume).disp = s.disp := rfl
@[simp] theorem State.resume_dirty : (s.resume).dirty = s.dirty := rfl
@[simp] theorem State.resume_key : (s.resume).key = s.key := rfl
@[simp] theorem State.resume_mode : (s.resume).mode = .running := rfl
@[simp] theorem State.resume_presentReq : (s.resume).presentReq = s.presentReq := rfl
@[simp] theorem State.resume_soundReq : (s.resume).soundReq = s.soundReq := rfl
@[simp] theorem State.resume_keysIn : (s.resume).keysIn = s.keysIn := rfl
@[simp] theorem State.resume_quitIn : (s.resume).quitIn = s.quitIn := rfl
@[simp] theorem State.resume_rndIn : (s.resume).rndIn = s.rndIn := rfl
@[simp] theorem State.resume_hostQueue : (s.resume).hostQueue = s.hostQueue := rfl
@[simp] theorem State.resume_drawCount : (s.resume).drawCount = s.drawCount := rfl

/-! ### `setFlag` -/

@[simp] theorem State.setFlag_cfg (f : Bool) : (s.setFlag f).cfg = s.cfg := rfl
@[simp] theorem State.setFlag_mem (f : Bool) : (s.setFlag f).mem = s.mem := rfl
@[simp] theorem State.setFlag_v (f : Bool) : (s.setFlag f).v = s.v.set Reg.vF (flagByte f) := rfl
@[simp] theorem State.setFlag_i (f : Bool) : (s.setFlag f).i = s.i := rfl
@[simp] theorem State.setFlag_pc (f : Bool) : (s.setFlag f).pc = s.pc := rfl
@[simp] theorem State.setFlag_stack (f : Bool) : (s.setFlag f).stack = s.stack := rfl
@[simp] theorem State.setFlag_sp (f : Bool) : (s.setFlag f).sp = s.sp := rfl
@[simp] theorem State.setFlag_dt (f : Bool) : (s.setFlag f).dt = s.dt := rfl
@[simp] theorem State.setFlag_st (f : Bool) : (s.setFlag f).st = s.st := rfl
@[simp] theorem State.setFlag_disp (f : Bool) : (s.setFlag f).disp = s.disp := rfl
@[simp] theorem State.setFlag_dirty (f : Bool) : (s.setFlag f).dirty = s.dirty := rfl
@[simp] theorem State.setFlag_key (f : Bool) : (s.setFlag f).key = s.key := rfl
@[simp] theorem State.setFlag_mode (f : Bool) : (s.setFlag f).mode = s.mode := rfl
@[simp] theorem State.setFlag_presentReq (f : Bool) : (s.setFlag f).presentReq = s.presentReq := rfl
@[simp] theorem State.setFlag_soundReq (f : Bool) : (s.setFlag f).soundReq = s.soundReq := rfl
@[simp] theorem State.setFlag_keysIn (f : Bool) : (s.setFlag f).keysIn = s.keysIn := rfl
@[simp] theorem State.setFlag_quitIn (f : Bool) : (s.setFlag f).quitIn = s.quitIn := rfl
@[simp] theorem State.setFlag_rndIn (f : Bool) : (s.setFlag f).rndIn = s.rndIn := rfl
@[simp] theorem State.setFlag_hostQueue (f : Bool) : (s.setFlag f).hostQueue = s.hostQueue := rfl
@[simp] theorem State.setFlag_drawCount (f : Bool) : (s.setFlag f).drawCount = s.drawCount := rfl

/-! ### `setResultFlag` -/

@[simp] theorem State.setResultFlag_cfg (x : Reg) (b : Byte) (f : Bool) : (s.setResultFlag x b f).cfg = s.cfg := rfl
@[simp] theorem State.setResultFlag_mem (x : Reg) (b : Byte) (f : Bool) : (s.setResultFlag x b f).mem = s.mem := rfl
@[simp] theorem State.setResultFlag_v (x : Reg) (b : Byte) (f : Bool) : (s.setResultFlag x b f).v = (s.v.set x b).set Reg.vF (flagByte f) := rfl
@[simp] theorem State.setResultFlag_i (x : Reg) (b : Byte) (f : Bool) : (s.setResultFlag x b f).i = s.i := rfl
@[simp] theorem State.setResultFlag_pc (x : Reg) (b : Byte) (f : Bool) : (s.setResultFlag x b f).pc = s.pc := rfl
@[simp] theorem State.setResultFlag_stack (x : Reg) (b : Byte) (f : Bool) : (s.setResultFlag x b f).stack = s.stack := rfl
@[simp] theorem State.setResultFlag_sp (x : Reg) (b : Byte) (f : Bool) : (s.setResultFlag x b f).sp = s.sp := rfl
@[simp] theorem State.setResultFlag_dt (x : Reg) (b : Byte) (f : Bool) : (s.setResultFlag x b f).dt = s.dt := rfl
@[simp] theorem State.setResultFlag_st (x : Reg) (b : Byte) (f : Bool) : (s.setResultFlag x b f).st = s.st := rfl
@[simp] theorem State.setResultFlag_disp (x : Reg) (b : Byte) (f : Bool) : (s.setResultFlag x b f).disp = s.disp := rfl
@[simp] theorem State.setResultFlag_dirty (x : Reg) (b : Byte) (f : Bool) : (s.setResultFlag x b f).dirty = s.dirty := rfl
@[simp] theorem State.setResultFlag_key (x : Reg) (b : Byte) (f : Bool) : (s.setResultFlag x b f).key = s.key := rfl
@[simp] theorem State.setResultFlag_mode (x : Reg) (b : Byte) (f : Bool) : (s.setResultFlag x b f).mode = s.mode := rfl
@[simp] theorem State.setResultFlag_presentReq (x : Reg) (b : Byte) (f : Bool) : (s.setResultFlag x b f).presentReq = s.presentReq := rfl
@[simp] theorem State.setResultFlag_soundReq (x : Reg) (b : Byte) (f : Bool) : (s.setResultFlag x b f).soundReq = s.soundReq := rfl
@[simp] theorem State.setResultFlag_keysIn (x : Reg) (b : Byte) (f : Bool) : (s.setResultFlag x b f).keysIn = s.keysIn := rfl
@[simp] theorem State.setResultFlag_quitIn (x : Reg) (b : Byte) (f : Bool) : (s.setResultFlag x b f).quitIn = s.quitIn := rfl
@[simp] theorem State.setResultFlag_rndIn (x : Reg) (b : Byte) (f : Bool) : (s.setResultFlag x b f).rndIn = s.rndIn := rfl
@[simp] theorem State.setResultFlag_hostQueue (x : Reg) (b : Byte) (f : Bool) : (s.setResultFlag x b f).hostQueue = s.hostQueue := rfl
@[simp] theorem State.setResultFlag_drawCount (x : Reg) (b : Byte) (f : Bool) : (s.setResultFlag x b f).drawCount = s.drawCount := rfl

/-! ### `takeKey` -/

@[simp] theorem State.takeKey_cfg (x : Reg) (k : Fin 16) : (s.takeKey x k).cfg = s.cfg := rfl
@[simp] theorem State.takeKey_mem (x : Reg) (k : Fin 16) : (s.takeKey x k).mem = s.mem := rfl
@[simp] theorem State.takeKey_v (x : Reg) (k : Fin 16) : (s.takeKey x k).v = s.v.set x (keyByte k) := rfl
@[simp] theorem State.takeKey_i (x : Reg) (k : Fin 16) : (s.takeKey x k).i = s.i := rfl
@[simp] theorem State.takeKey_pc (x : Reg) (k : Fin 16) : (s.takeKey x k).pc = s.pc + 2 := rfl
@[simp] theorem State.takeKey_stack (x : Reg) (k : Fin 16) : (s.takeKey x k).stack = s.stack := rfl
@[simp] theorem State.takeKey_sp (x : Reg) (k : Fin 16) : (s.takeKey x k).sp = s.sp := rfl
@[simp] theorem State.takeKey_dt (x : Reg) (k : Fin 16) : (s.takeKey x k).dt = s.dt := rfl
@[simp] theorem State.takeKey_st (x : Reg) (k : Fin 16) : (s.takeKey x k).st = s.st := rfl
@[simp] theorem State.takeKey_disp (x : Reg) (k : Fin 16) : (s.takeKey x k).disp = s.disp := rfl
@[simp] theorem State.takeKey_dirty (x : Reg) (k : Fin 16) : (s.takeKey x k).dirty = s.dirty := rfl
@[simp] theorem State.takeKey_key (x : Reg) (k : Fin 16) : (s.takeKey x k).key = s.key := rfl
@[simp] theorem State.takeKey_mode (x : Reg) (k : Fin 16) : (s.takeKey x k).mode = s.mode := rfl
@[simp] theorem State.takeKey_presentReq (x : Reg) (k : Fin 16) : (s.takeKey x k).presentReq = s.presentReq := rfl
@[simp] theorem State.takeKey_soundReq (x : Reg) (k : Fin 16) : (s.takeKey x k).soundReq = s.soundReq := rfl
@[simp] theorem State.takeKey_keysIn (x : Reg) (k : Fin 16) : (s.takeKey x k).keysIn = s.keysIn := rfl
@[simp] theorem State.takeKey_quitIn (x : Reg) (k : Fin 16) : (s.takeKey x k).quitIn = s.quitIn := rfl
@[simp] theorem State.takeKey_rndIn (x : Reg) (k : Fin 16) : (s.takeKey x k).rndIn = s.rndIn := rfl
@[simp] theorem State.takeKey_hostQueue (x : Reg) (k : Fin 16) : (s.takeKey x k).hostQueue = s.hostQueue := rfl
@[simp] theorem State.takeKey_drawCount (x : Reg) (k : Fin 16) : (s.takeKey x k).drawCount = s.drawCount := rfl

/-! ### `clearOutputs` -/

@[simp] theorem State.clearOutputs_cfg : (s.clearOutputs).cfg = s.cfg := rfl
@[simp] theorem State.clearOutputs_mem : (s.clearOutputs).mem = s.mem := rfl
@[simp] theorem State.clearOutputs_v : (s.clearOutputs).v = s.v := rfl
@[simp] theorem State.clearOutputs_i : (s.clearOutputs).i = s.i := rfl
@[simp] theorem State.clearOutputs_pc : (s.clearOutputs).pc = s.pc := rfl
@[simp] theorem State.clearOutputs_stack : (s.clearOutputs).stack = s.stack := rfl
@[simp] theorem State.clearOutputs_sp : (s.clearOutputs).sp = s.sp := rfl
@[simp] theorem State.clearOutputs_dt : (s.clearOutputs).dt = s.dt := rfl
@[simp] theorem State.clearOutputs_st : (s.clearOutputs).st = s.st := rfl
@[simp] theorem State.clearOutputs_disp : (s.clearOutputs).disp = s.disp := rfl
@[simp] theorem State.clearOutputs_dirty : (s.clearOutputs).dirty = s.dirty := rfl
@[simp] theorem State.clearOutputs_key : (s.clearOutputs).key = s.key := rfl
@[simp] theorem State.clearOutputs_mode : (s.clearOutputs).mode = s.mode := rfl
@[simp] theorem State.clearOutputs_presentReq : (s.clearOutputs).presentReq = false := rfl
@[simp] theorem State.clearOutputs_soundReq : (s.clearOutputs).soundReq = false := rfl
@[simp] theorem State.clearOutputs_keysIn : (s.clearOutputs).keysIn = s.keysIn := rfl
@[simp] theorem State.clearOutputs_quitIn : (s.clearOutputs).quitIn = s.quitIn := rfl
@[simp] theorem State.clearOutputs_rndIn : (s.clearOutputs).rndIn = s.rndIn := rfl
@[simp] theorem State.clearOutputs_hostQueue : (s.clearOutputs).hostQueue = s.hostQueue := rfl
@[simp] theorem State.clearOutputs_drawCount : (s.clearOutputs).drawCount = s.drawCount := rfl

/-! ### `tick` -/

@[simp] theorem State.tick_cfg : (s.tick).cfg = s.cfg := rfl
@[simp] theorem State.tick_mem : (s.tick).mem = s.mem := rfl
@[simp] theorem State.tick_v : (s.tick).v = s.v := rfl
@[simp] theorem State.tick_i : (s.tick).i = s.i := rfl
@[simp] theorem State.tick_pc : (s.tick).pc = s.pc := rfl
@[simp] theorem State.tick_stack : (s.tick).stack = s.stack := rfl
@[simp] theorem State.tick_sp : (s.tick).sp = s.sp := rfl
@[simp] theorem State.tick_dt : (s.tick).dt = if s.dt = 0 then 0 else s.dt - 1 := rfl
@[simp] theorem State.tick_st : (s.tick).st = if s.st = 0 then 0 else s.st - 1 := rfl
@[simp] theorem State.tick_disp : (s.tick).disp = s.disp := rfl
@[simp] theorem State.tick_dirty : (s.tick).dirty = s.dirty := rfl
@[simp] theorem State.tick_key : (s.tick).key = s.key := rfl
@[simp] theorem State.tick_mode : (s.tick).mode = s.mode := rfl
@[simp] theorem State.tick_presentReq : (s.tick).presentReq = s.presentReq := rfl
@[simp] theorem State.tick_soundReq : (s.tick).soundReq = (s.st == 1) := rfl
@[simp] theorem State.tick_keysIn : (s.tick).keysIn = s.keysIn := rfl
@[simp] theorem State.tick_quitIn : (s.tick).quitIn = s.quitIn := rfl
@[simp] theorem State.tick_rndIn : (s.tick).rndIn = s.rndIn := rfl
@[simp] theorem State.tick_hostQueue : (s.tick).hostQueue = s.hostQueue := rfl
@[simp] theorem State.tick_drawCount : (s.tick).drawCount = s.drawCount := rfl

/-! ### `present` -/

@[simp] theorem State.present_cfg : (s.present).cfg = s.cfg := rfl
@[simp] theorem State.present_mem : (s.present).mem = s.mem := rfl
@[simp] theorem State.present_v : (s.present).v = s.v := rfl
@[simp] theorem State.present_i : (s.present).i = s.i := rfl
@[simp] theorem State.present_pc : (s.present).pc = s.pc := rfl
@[simp] theorem State.present_stack : (s.present).stack = s.stack := rfl
@[simp] theorem State.present_sp : (s.present).sp = s.sp := rfl
@[simp] theorem State.present_dt : (s.present).dt = s.dt := rfl
@[simp] theorem State.present_st : (s.present).st = s.st := rfl
@[simp] theorem State.present_disp : (s.present).disp = s.disp := rfl
@[simp] theorem State.present_dirty : (s.present).dirty = false := rfl
@[simp] theorem State.present_key : (s.present).key = s.key := rfl
@[simp] theorem State.present_mode : (s.present).mode = s.mode := rfl
@[simp] theorem State.present_presentReq : (s.present).presentReq = s.dirty := rfl
@[simp] theorem State.present_soundReq : (s.present).soundReq = s.soundReq := rfl
@[simp] theorem State.present_keysIn : (s.present).keysIn = s.keysIn := rfl
@[simp] theorem State.present_quitIn : (s.present).quitIn = s.quitIn := rfl
@[simp] theorem State.present_rndIn : (s.present).rndIn = s.rndIn := rfl
@[simp] theorem State.present_hostQueue : (s.present).hostQueue = s.hostQueue := rfl
@[simp] theorem State.present_drawCount : (s.present).drawCount = s.drawCount := rfl

/-! ### `endCycle` -/

@[simp] theorem State.endCycle_cfg : (s.endCycle).cfg = s.cfg := rfl
@[simp] theorem State.endCycle_mem : (s.endCycle).mem = s.mem := rfl
@[simp] theorem State.endCycle_v : (s.endCycle).v = s.v := rfl
@[simp] theorem State.endCycle_i : (s.endCycle).i = s.i := rfl
@[simp] theorem State.endCycle_pc : (s.endCycle).pc = s.pc := rfl
@[simp] theorem State.endCycle_stack : (s.endCycle).stack = s.stack := rfl
@[simp] theorem State.endCycle_sp : (s.endCycle).sp = s.sp := rfl
@[simp] theorem State.endCycle_dt : (s.endCycle).dt = if s.dt = 0 then 0 else s.dt - 1 := rfl
@[simp] theorem State.endCycle_st : (s.endCycle).st = if s.st = 0 then 0 else s.st - 1 := rfl
@[simp] theorem State.endCycle_disp : (s.endCycle).disp = s.disp := rfl
@[simp] theorem State.endCycle_dirty : (s.endCycle).dirty = false := rfl
@[simp] theorem State.endCycle_key : (s.endCycle).key = s.key := rfl
@[simp] theorem State.endCycle_mode : (s.endCycle).mode = s.mode := rfl
@[simp] theorem State.endCycle_presentReq : (s.endCycle).presentReq = s.dirty := rfl
@[simp] theorem State.endCycle_soundReq : (s.endCycle).soundReq = (s.st == 1) := rfl
@[simp] theorem State.endCycle_keysIn : (s.endCycle).keysIn = s.keysIn := rfl
@[simp] theorem State.endCycle_quitIn : (s.endCycle).quitIn = s.quitIn := rfl
@[simp] theorem State.endCycle_rndIn : (s.endCycle).rndIn = s.rndIn := rfl
@[simp] theorem State.endCycle_hostQueue : (s.endCycle).hostQueue = s.hostQueue := rfl
@[simp] theorem State.endCycle_drawCount : (s.endCycle).drawCount = s.drawCount := rfl

/-! ### `hostActs` -/

@[simp] theorem State.hostActs_cfg : (s.hostActs).cfg = s.cfg := rfl
@[simp] theorem State.hostActs_mem : (s.hostActs).mem = s.mem := rfl
@[simp] theorem State.hostActs_v : (s.hostActs).v = s.v := rfl
@[simp] theorem State.hostActs_i : (s.hostActs).i = s.i := rfl
@[simp] theorem State.hostActs_pc : (s.hostActs).pc = s.pc := rfl
@[simp] theorem State.hostActs_stack : (s.hostActs).stack = s.stack := rfl
@[simp] theorem State.hostActs_sp : (s.hostActs).sp = s.sp := rfl
@[simp] theorem State.hostActs_dt : (s.hostActs).dt = s.dt := rfl
@[simp] theorem State.hostActs_st : (s.hostActs).st = s.st := rfl
@[simp] theorem State.hostActs_disp : (s.hostActs).disp = s.disp := rfl
@[simp] theorem State.hostActs_dirty : (s.hostActs).dirty = s.dirty := rfl
@[simp] theorem State.hostActs_key : (s.hostActs).key = s.key := rfl
@[simp] theorem State.hostActs_mode : (s.hostActs).mode = s.mode := rfl
@[simp] theorem State.hostActs_presentReq : (s.hostActs).presentReq = s.presentReq := rfl
@[simp] theorem State.hostActs_soundReq : (s.hostActs).soundReq = s.soundReq := rfl
@[simp] theorem State.hostActs_keysIn : (s.hostActs).keysIn = s.nextInput.keys := rfl
@[simp] theorem State.hostActs_quitIn : (s.hostActs).quitIn = (s.quitIn || s.nextInput.quit) := rfl
@[simp] theorem State.hostActs_rndIn : (s.hostActs).rndIn = s.nextInput.rnd := rfl
@[simp] theorem State.hostActs_hostQueue : (s.hostActs).hostQueue = s.hostQueue.tail := rfl
@[simp] theorem State.hostActs_drawCount : (s.hostActs).drawCount = if s.hostQueue.isEmpty then s.drawCount + 1 else s.drawCount := rfl

/-! ### `loadBlock` -/

@[simp] theorem State.loadBlock_cfg (a : Nat) (x : Reg) : (s.loadBlock a x).cfg = s.cfg := rfl
@[simp] theorem State.loadBlock_mem (a : Nat) (x : Reg) : (s.loadBlock a x).mem = s.mem := rfl
@[simp] theorem State.loadBlock_v (a : Nat) (x : Reg) : (s.loadBlock a x).v =
    Vector.ofFn fun j : Fin 16 => if j.val ≤ x.val then s.readByte (a + j.val) else s.v[j] := rfl
@[simp] theorem State.loadBlock_i (a : Nat) (x : Reg) : (s.loadBlock a x).i = s.i := rfl
@[simp] theorem State.loadBlock_pc (a : Nat) (x : Reg) : (s.loadBlock a x).pc = s.pc := rfl
@[simp] theorem State.loadBlock_stack (a : Nat) (x : Reg) : (s.loadBlock a x).stack = s.stack := rfl
@[simp] theorem State.loadBlock_sp (a : Nat) (x : Reg) : (s.loadBlock a x).sp = s.sp := rfl
@[simp] theorem State.loadBlock_dt (a : Nat) (x : Reg) : (s.loadBlock a x).dt = s.dt := rfl
@[simp] theorem State.loadBlock_st (a : Nat) (x : Reg) : (s.loadBlock a x).st = s.st := rfl
@[simp] theorem State.loadBlock_disp (a : Nat) (x : Reg) : (s.loadBlock a x).disp = s.disp := rfl
@[simp] theorem State.loadBlock_dirty (a : Nat) (x : Reg) : (s.loadBlock a x).dirty = s.dirty := rfl
@[simp] theorem State.loadBlock_key (a : Nat) (x : Reg) : (s.loadBlock a x).key = s.key := rfl
@[simp] theorem State.loadBlock_mode (a : Nat) (x : Reg) : (s.loadBlock a x).mode = s.mode := rfl
@[simp] theorem State.loadBlock_presentReq (a : Nat) (x : Reg) : (s.loadBlock a x).presentReq = s.presentReq := rfl
@[simp] theorem State.loadBlock_soundReq (a : Nat) (x : Reg) : (s.loadBlock a x).soundReq = s.soundReq := rfl
@[simp] theorem State.loadBlock_keysIn (a : Nat) (x : Reg) : (s.loadBlock a x).keysIn = s.keysIn := rfl
@[simp] theorem State.loadBlock_quitIn (a : Nat) (x : Reg) : (s.loadBlock a x).quitIn = s.quitIn := rfl
@[simp] theorem State.loadBlock_rndIn (a : Nat) (x : Reg) : (s.loadBlock a x).rndIn = s.rndIn := rfl
@[simp] theorem State.loadBlock_hostQueue (a : Nat) (x : Reg) : (s.loadBlock a x).hostQueue = s.hostQueue := rfl
@[simp] theorem State.loadBlock_drawCount (a : Nat) (x : Reg) : (s.loadBlock a x).drawCount = s.drawCount := rfl

/-! ### `bumpI` -/

@[simp] theorem State.bumpI_cfg (x : Reg) : (s.bumpI x).cfg = s.cfg := by unfold State.bumpI; split <;> rfl
@[simp] theorem State.bumpI_mem (x : Reg) : (s.bumpI x).mem = s.mem := by unfold State.bumpI; split <;> rfl
@[simp] theorem State.bumpI_v (x : Reg) : (s.bumpI x).v = s.v := by unfold State.bumpI; split <;> rfl
@[simp] theorem State.bumpI_i (x : Reg) : (s.bumpI x).i =
    if s.cfg.loadStoreIncrementsI then s.i + BitVec.ofNat 16 (blockLength x) else s.i := by
  unfold State.bumpI; split <;> rfl
@[simp] theorem State.bumpI_pc (x : Reg) : (s.bumpI x).pc = s.pc := by unfold State.bumpI; split <;> rfl
@[simp] theorem State.bumpI_stack (x : Reg) : (s.bumpI x).stack = s.stack := by unfold State.bumpI; split <;> rfl
@[simp] theorem State.bumpI_sp (x : Reg) : (s.bumpI x).sp = s.sp := by unfold State.bumpI; split <;> rfl
@[simp] theorem State.bumpI_dt (x : Reg) : (s.bumpI x).dt = s.dt := by unfold State.bumpI; split <;> rfl
@[simp] theorem State.bumpI_st (x : Reg) : (s.bumpI x).st = s.st := by unfold State.bumpI; split <;> rfl
@[simp] theorem State.bumpI_disp (x : Reg) : (s.bumpI x).disp = s.disp := by unfold State.bumpI; split <;> rfl
@[simp] theorem State.bumpI_dirty (x : Reg) : (s.bumpI x).dirty = s.dirty := by unfold State.bumpI; split <;> rfl
@[simp] theorem State.bumpI_key (x : Reg) : (s.bumpI x).key = s.key := by unfold State.bumpI; split <;> rfl
@[simp] theorem State.bumpI_mode (x : Reg) : (s.bumpI x).mode = s.mode := by unfold State.bumpI; split <;> rfl
@[simp] theorem State.bumpI_presentReq (x : Reg) : (s.bumpI x).presentReq = s.presentReq := by unfold State.bumpI; split <;> rfl
@[simp] theorem State.bumpI_soundReq (x : Reg) : (s.bumpI x).soundReq = s.soundReq := by unfold State.bumpI; split <;> rfl
@[simp] theorem State.bumpI_keysIn (x : Reg) : (s.bumpI x).keysIn = s.keysIn := by unfold State.bumpI; split <;> rfl
@[simp] theorem State.bumpI_quitIn (x : Reg) : (s.bumpI x).quitIn = s.quitIn := by unfold State.bumpI; split <;> rfl
@[simp] theorem State.bumpI_rndIn (x : Reg) : (s.bumpI x).rndIn = s.rndIn := by unfold State.bumpI; split <;> rfl
@[simp] theorem State.bumpI_hostQueue (x : Reg) : (s.bumpI x).hostQueue = s.hostQueue := by unfold State.bumpI; split <;> rfl
@[simp] theorem State.bumpI_drawCount (x : Reg) : (s.bumpI x).drawCount = s.drawCount := by unfold State.bumpI; split <;> rfl

/-! ### `writeBytes` -/

@[simp] theorem State.writeBytes_cfg (a : Nat) (bs : List Byte) : (s.writeBytes a bs).cfg = s.cfg := by
  induction bs generalizing s a with
  | nil => rfl
  | cons b rest ih => exact ih _ _
@[simp] theorem State.writeBytes_v (a : Nat) (bs : List Byte) : (s.writeBytes a bs).v = s.v := by
  induction bs generalizing s a with
  | nil => rfl
  | cons b rest ih => exact ih _ _
@[simp] theorem State.writeBytes_i (a : Nat) (bs : List Byte) : (s.writeBytes a bs).i = s.i := by
  induction bs generalizing s a with
  | nil => rfl
  | cons b rest ih => exact ih _ _
@[simp] theorem State.writeBytes_pc (a : Nat) (bs : List Byte) : (s.writeBytes a bs).pc = s.pc := by
  induction bs generalizing s a with
  | nil => rfl
  | cons b rest ih => exact ih _ _
@[simp] theorem State.writeBytes_stack (a : Nat) (bs : List Byte) : (s.writeBytes a bs).stack = s.stack := by
  induction bs generalizing s a with
  | nil => rfl
  | cons b rest ih => exact ih _ _
@[simp] theorem State.writeBytes_sp (a : Nat) (bs : List Byte) : (s.writeBytes a bs).sp = s.sp := by
  induction bs generalizing s a with
  | nil => rfl
  | cons b rest ih => exact ih _ _
@[simp] theorem State.writeBytes_dt (a : Nat) (bs : List Byte) : (s.writeBytes a bs).dt = s.dt := by
  induction bs generalizing s a with
  | nil => rfl
  | cons b rest ih => exact ih _ _
@[simp] theorem State.writeBytes_st (a : Nat) (bs : List Byte) : (s.writeBytes a bs).st = s.st := by
  induction bs generalizing s a with
  | nil => rfl
  | cons b rest ih => exact ih _ _
@[simp] theorem State.writeBytes_disp (a : Nat) (bs : List Byte) : (s.writeBytes a bs).disp = s.disp := by
  induction bs generalizing s a with
  | nil => rfl
  | cons b rest ih => exact ih _ _
@[simp] theorem State.writeBytes_dirty (a : Nat) (bs : List Byte) : (s.writeBytes a bs).dirty = s.dirty := by
  induction bs generalizing s a with
  | nil => rfl
  | cons b rest ih => exact ih _ _
@[simp] theorem State.writeBytes_key (a : Nat) (bs : List Byte) : (s.writeBytes a bs).key = s.key := by
  induction bs generalizing s a with
  | nil => rfl
  | cons b rest ih => exact ih _ _
@[simp] theorem State.writeBytes_mode (a : Nat) (bs : List Byte) : (s.writeBytes a bs).mode = s.mode := by
  induction bs generalizing s a with
  | nil => rfl
  | cons b rest ih => exact ih _ _
@[simp] theorem State.writeBytes_presentReq (a : Nat) (bs : List Byte) : (s.writeBytes a bs).presentReq = s.presentReq := by
  induction bs generalizing s a with
  | nil => rfl
  | cons b rest ih => exact ih _ _
@[simp] theorem State.writeBytes_soundReq (a : Nat) (bs : List Byte) : (s.writeBytes a bs).soundReq = s.soundReq := by
  induction bs generalizing s a with
  | nil => rfl
  | cons b rest ih => exact ih _ _
@[simp] theorem State.writeBytes_keysIn (a : Nat) (bs : List Byte) : (s.writeBytes a bs).keysIn = s.keysIn := by
  induction bs generalizing s a with
  | nil => rfl
  | cons b rest ih => exact ih _ _
@[simp] theorem State.writeBytes_quitIn (a : Nat) (bs : List Byte) : (s.writeBytes a bs).quitIn = s.quitIn := by
  induction bs generalizing s a with
  | nil => rfl
  | cons b rest ih => exact ih _ _
@[simp] theorem State.writeBytes_rndIn (a : Nat) (bs : List Byte) : (s.writeBytes a bs).rndIn = s.rndIn := by
  induction bs generalizing s a with
  | nil => rfl
  | cons b rest ih => exact ih _ _
@[simp] theorem State.writeBytes_hostQueue (a : Nat) (bs : List Byte) : (s.writeBytes a bs).hostQueue = s.hostQueue := by
  induction bs generalizing s a with
  | nil => rfl
  | cons b rest ih => exact ih _ _
@[simp] theorem State.writeBytes_drawCount (a : Nat) (bs : List Byte) : (s.writeBytes a bs).drawCount = s.drawCount := by
  induction bs generalizing s a with
  | nil => rfl
  | cons b rest ih => exact ih _ _

end Sys2Proof.Machine
end

