-- ==== Sys2Proof/Laws/Memory.lean ====
section
/-! SUPPORT. Memory as cells: read after write, the canonical form kept, and equal reads make equal canonical memories. -/

namespace Sys2Proof.Machine

theorem lookup_insert_same (a : Nat) (b : Byte) (m : Memory) (h : ∀ c ∈ m, c.1 ≠ a) :
    (Memory.insert a b m).lookup a = some b := by
  induction m with
  | nil => simp [Memory.insert, Memory.lookup]
  | cons c rest ih =>
    have hc : c.1 ≠ a := h c (by simp)
    unfold Memory.insert
    split
    · simp [Memory.lookup]
    · simp only [Memory.lookup, if_neg hc]
      exact ih fun d hd => h d (by simp [hd])

theorem lookup_insert_other (a a' : Nat) (b : Byte) (m : Memory) (h : a' ≠ a) :
    (Memory.insert a b m).lookup a' = m.lookup a' := by
  induction m with
  | nil => simp [Memory.insert, Memory.lookup, Ne.symm h]
  | cons c rest ih =>
    unfold Memory.insert
    split
    · simp [Memory.lookup, Ne.symm h]
    · simp only [Memory.lookup, ih]

theorem lookup_filter_same (a : Nat) (m : Memory) : Memory.lookup (m.filter fun c => c.1 != a) a = none := by
  induction m with
  | nil => rfl
  | cons c rest ih =>
    by_cases hc : c.1 = a <;> simp [hc, Memory.lookup, ih]

theorem lookup_filter_other (a a' : Nat) (m : Memory) (h : a' ≠ a) :
    Memory.lookup (m.filter fun c => c.1 != a) a' = m.lookup a' := by
  induction m with
  | nil => rfl
  | cons c rest ih =>
    by_cases hc : c.1 = a
    · simp [hc, Memory.lookup, ih, Ne.symm h]
    · simp [hc, Memory.lookup, ih]

theorem mem_filter_ne (a : Nat) (m : Memory) : ∀ c ∈ m.filter (fun c => c.1 != a), c.1 ≠ a := by
  simp

/-- R60: "A read returns the value of the most recent write to that address". -/
@[simp] theorem Memory.read_write_same (cfg : Config) (m : Memory) (a : Nat) (b : Byte) :
    (Memory.write cfg m a b).read cfg a = b := by
  unfold Memory.write Memory.read
  split
  · simp [lookup_filter_same, *]
  · simp [lookup_insert_same a b _ (mem_filter_ne a m)]

/-- A write leaves every other address alone. -/
theorem Memory.read_write_other (cfg : Config) (m : Memory) (a a' : Nat) (b : Byte) (h : a' ≠ a) :
    (Memory.write cfg m a b).read cfg a' = m.read cfg a' := by
  unfold Memory.write Memory.read
  split
  · simp [lookup_filter_other a a' m h]
  · simp [lookup_insert_other a a' b _ h, lookup_filter_other a a' m h]

theorem mem_insert_iff (a : Nat) (b : Byte) (m : Memory) (c : Host.Cell) :
    c ∈ Memory.insert a b m ↔ c = (a, b) ∨ c ∈ m := by
  induction m with
  | nil => simp [Memory.insert]
  | cons d rest ih =>
    unfold Memory.insert
    split
    · simp
    · simp [ih]; tauto

theorem insert_rising (a : Nat) (b : Byte) (m : Memory) (hm : m.Pairwise fun c d => c.1 < d.1)
    (ha : ∀ c ∈ m, c.1 ≠ a) : (Memory.insert a b m).Pairwise fun c d => c.1 < d.1 := by
  induction m with
  | nil => simp [Memory.insert]
  | cons d rest ih =>
    rw [List.pairwise_cons] at hm
    have hd : d.1 ≠ a := ha d (by simp)
    unfold Memory.insert
    split
    · rename_i hlt
      refine List.pairwise_cons.2 ⟨?_, List.pairwise_cons.2 hm⟩
      intro c hc
      rcases List.mem_cons.1 hc with rfl | hc
      · exact hlt
      · exact lt_trans hlt (hm.1 c hc)
    · rename_i hge
      refine List.pairwise_cons.2 ⟨?_, ih hm.2 fun c hc => ha c (by simp [hc])⟩
      intro c hc
      rcases (mem_insert_iff a b rest c).1 hc with rfl | hc
      · exact lt_of_le_of_ne (not_lt.1 hge) hd
      · exact hm.1 c hc

/-- Every write below 4096 keeps the canonical form. -/
theorem Memory.wf_write (cfg : Config) (m : Memory) (a : Nat) (b : Byte) (hm : Memory.wf cfg m)
    (ha : a < Config.memSize) : Memory.wf cfg (Memory.write cfg m a b) := by
  have hf : Memory.wf cfg (m.filter fun c => c.1 != a) :=
    ⟨hm.1.sublist List.filter_sublist, fun c hc => hm.2 c (List.mem_filter.1 hc).1⟩
  unfold Memory.write
  dsimp only
  split
  · exact hf
  · rename_i hb
    refine ⟨insert_rising a b _ hf.1 (mem_filter_ne a m), fun c hc => ?_⟩
    rcases (mem_insert_iff a b _ c).1 hc with rfl | hc
    · exact ⟨ha, hb⟩
    · exact hf.2 c hc

/-- A canonical memory lists a cell exactly when looking it up finds it. -/
theorem lookup_eq_some_iff (m : Memory) (hm : m.Pairwise fun c d => c.1 < d.1) (a : Nat) (b : Byte) :
    m.lookup a = some b ↔ (a, b) ∈ m := by
  induction m with
  | nil => simp [Memory.lookup]
  | cons c rest ih =>
    rw [List.pairwise_cons] at hm
    obtain ⟨a', b'⟩ := c
    by_cases h : a' = a
    · subst h
      constructor
      · intro hl; simp [Memory.lookup] at hl; simp [hl]
      · intro hmem
        rcases List.mem_cons.1 hmem with heq | hmem
        · simp [Memory.lookup, (Prod.mk.inj heq).2]
        · exact absurd (hm.1 _ hmem) (lt_irrefl _)
    · simp only [Memory.lookup, if_neg h, ih hm.2, List.mem_cons, Prod.mk.injEq, Ne.symm h, false_and, false_or]

/-- A cell of a canonical memory is what its address reads as. -/
theorem Memory.read_of_mem (cfg : Config) (m : Memory) (hm : Memory.wf cfg m) (c : Host.Cell) (hc : c ∈ m) :
    m.read cfg c.1 = c.2 := by
  simp [Memory.read, (lookup_eq_some_iff m hm.1 c.1 c.2).2 hc]

/-- An address a canonical memory reads otherwise than at startup is listed. -/
theorem Memory.mem_of_read_ne (cfg : Config) (m : Memory) (hm : Memory.wf cfg m) (a : Nat)
    (h : m.read cfg a ≠ initialByte cfg a) : (a, m.read cfg a) ∈ m := by
  unfold Memory.read at h ⊢
  cases hl : m.lookup a with
  | none => simp [hl] at h
  | some b => simpa using (lookup_eq_some_iff m hm.1 a b).1 hl

/-- R65: the glyph bytes lie at `FONT_BASE`. -/
theorem initialByte_font (cfg : Config) (a : Nat) :
    initialByte cfg (cfg.fontBase.val + a) = cfg.font[a]?.getD 0 := by simp [initialByte]

/-- R57: every byte outside the font is 0 at startup. -/
theorem initialByte_outside (cfg : Config) (a : Nat) (h : a < cfg.fontBase.val ∨ cfg.fontBase.val + 80 ≤ a) :
    initialByte cfg a = 0 := by
  unfold initialByte
  split
  · rw [Vector.getElem?_eq_none (by omega)]; rfl
  · rfl

@[simp] theorem Memory.read_nil (cfg : Config) (a : Nat) : Memory.read cfg [] a = initialByte cfg a := rfl

end Sys2Proof.Machine
end

