-- ==== Sys2Proof/Laws/Ops.lean ====
section
/-! SUPPORT. One lemma for each shared operation: reading a register or a byte after it, ranges, blocks, flags, keys. -/

namespace Sys2Proof.Machine

variable (s : State)

/-! ### Registers -/

theorem State.reg_setReg (x z : Reg) (b : Byte) : (s.setReg x b).reg z = if x = z then b else s.reg z := by
  simp [State.reg, State.setReg, Vector.getElem_set, Fin.ext_iff]

@[simp] theorem State.reg_setReg_same (x : Reg) (b : Byte) : (s.setReg x b).reg x = b := by
  simp [State.reg_setReg]

theorem State.reg_setReg_other (x z : Reg) (b : Byte) (h : z ≠ x) : (s.setReg x b).reg z = s.reg z := by
  simp [State.reg_setReg, Ne.symm h]

@[simp] theorem State.reg_setFlag (f : Bool) (z : Reg) :
    (s.setFlag f).reg z = if Reg.vF = z then flagByte f else s.reg z := s.reg_setReg _ _ _

/-- R130: VF is written last, so the flag wins. -/
@[simp] theorem State.reg_setResultFlag (x : Reg) (b : Byte) (f : Bool) (z : Reg) :
    (s.setResultFlag x b f).reg z = if Reg.vF = z then flagByte f else if x = z then b else s.reg z := by
  simp [State.setResultFlag, State.reg_setReg]

@[simp] theorem State.reg_takeKey (x : Reg) (k : Fin 16) (z : Reg) :
    (s.takeKey x k).reg z = if x = z then keyByte k else s.reg z := s.reg_setReg _ _ _

/-- R143: V0..Vx come from memory, the registers above x stay. -/
@[simp] theorem State.reg_loadBlock (a : Nat) (x z : Reg) :
    (s.loadBlock a x).reg z = if z.val ≤ x.val then s.readByte (a + z.val) else s.reg z := by
  simp [State.reg, State.loadBlock]

@[simp] theorem State.setI_reg (w : Word) (z : Reg) : (s.setI w).reg z = s.reg z := rfl
@[simp] theorem State.setPc_reg (w : Word) (z : Reg) : (s.setPc w).reg z = s.reg z := rfl
@[simp] theorem State.advance_reg (z : Reg) : (s.advance).reg z = s.reg z := rfl
@[simp] theorem State.skipIf_reg (c : Bool) (z : Reg) : (s.skipIf c).reg z = s.reg z := rfl
@[simp] theorem State.writeByte_reg (a : Nat) (b : Byte) (z : Reg) : (s.writeByte a b).reg z = s.reg z := rfl
@[simp] theorem State.halt_reg (r : HaltReason) (z : Reg) : (s.halt r).reg z = s.reg z := rfl
@[simp] theorem State.push_reg (w : Word) (h : s.sp.val < Config.stackDepth) (z : Reg) : (s.push w h).reg z = s.reg z := rfl
@[simp] theorem State.popToPc_reg (h : 0 < s.sp.val) (z : Reg) : (s.popToPc h).reg z = s.reg z := rfl
@[simp] theorem State.setDT_reg (b : Byte) (z : Reg) : (s.setDT b).reg z = s.reg z := rfl
@[simp] theorem State.setST_reg (b : Byte) (z : Reg) : (s.setST b).reg z = s.reg z := rfl
@[simp] theorem State.setDisplay_reg (d : Display) (z : Reg) : (s.setDisplay d).reg z = s.reg z := rfl
@[simp] theorem State.refreshKeys_reg (z : Reg) : (s.refreshKeys).reg z = s.reg z := rfl
@[simp] theorem State.awaitKey_reg (x : Reg) (z : Reg) : (s.awaitKey x).reg z = s.reg z := rfl
@[simp] theorem State.resume_reg (z : Reg) : (s.resume).reg z = s.reg z := rfl
@[simp] theorem State.clearOutputs_reg (z : Reg) : (s.clearOutputs).reg z = s.reg z := rfl
@[simp] theorem State.tick_reg (z : Reg) : (s.tick).reg z = s.reg z := rfl
@[simp] theorem State.present_reg (z : Reg) : (s.present).reg z = s.reg z := rfl
@[simp] theorem State.endCycle_reg (z : Reg) : (s.endCycle).reg z = s.reg z := rfl
@[simp] theorem State.hostActs_reg (z : Reg) : (s.hostActs).reg z = s.reg z := rfl
@[simp] theorem State.bumpI_reg (x z : Reg) : (s.bumpI x).reg z = s.reg z := by simp [State.reg]
@[simp] theorem State.writeBytes_reg (a : Nat) (bs : List Byte) (z : Reg) : (s.writeBytes a bs).reg z = s.reg z := by
  simp [State.reg]

/-! ### Memory -/

@[simp] theorem State.setReg_readByte (x : Reg) (b : Byte) (z : Nat) : (s.setReg x b).readByte z = s.readByte z := rfl
@[simp] theorem State.setI_readByte (w : Word) (z : Nat) : (s.setI w).readByte z = s.readByte z := rfl
@[simp] theorem State.setPc_readByte (w : Word) (z : Nat) : (s.setPc w).readByte z = s.readByte z := rfl
@[simp] theorem State.advance_readByte (z : Nat) : (s.advance).readByte z = s.readByte z := rfl
@[simp] theorem State.skipIf_readByte (c : Bool) (z : Nat) : (s.skipIf c).readByte z = s.readByte z := rfl
@[simp] theorem State.halt_readByte (r : HaltReason) (z : Nat) : (s.halt r).readByte z = s.readByte z := rfl
@[simp] theorem State.push_readByte (w : Word) (h : s.sp.val < Config.stackDepth) (z : Nat) : (s.push w h).readByte z = s.readByte z := rfl
@[simp] theorem State.popToPc_readByte (h : 0 < s.sp.val) (z : Nat) : (s.popToPc h).readByte z = s.readByte z := rfl
@[simp] theorem State.setDT_readByte (b : Byte) (z : Nat) : (s.setDT b).readByte z = s.readByte z := rfl
@[simp] theorem State.setST_readByte (b : Byte) (z : Nat) : (s.setST b).readByte z = s.readByte z := rfl
@[simp] theorem State.setDisplay_readByte (d : Display) (z : Nat) : (s.setDisplay d).readByte z = s.readByte z := rfl
@[simp] theorem State.refreshKeys_readByte (z : Nat) : (s.refreshKeys).readByte z = s.readByte z := rfl
@[simp] theorem State.awaitKey_readByte (x : Reg) (z : Nat) : (s.awaitKey x).readByte z = s.readByte z := rfl
@[simp] theorem State.resume_readByte (z : Nat) : (s.resume).readByte z = s.readByte z := rfl
@[simp] theorem State.setFlag_readByte (f : Bool) (z : Nat) : (s.setFlag f).readByte z = s.readByte z := rfl
@[simp] theorem State.setResultFlag_readByte (x : Reg) (b : Byte) (f : Bool) (z : Nat) : (s.setResultFlag x b f).readByte z = s.readByte z := rfl
@[simp] theorem State.takeKey_readByte (x : Reg) (k : Fin 16) (z : Nat) : (s.takeKey x k).readByte z = s.readByte z := rfl
@[simp] theorem State.clearOutputs_readByte (z : Nat) : (s.clearOutputs).readByte z = s.readByte z := rfl
@[simp] theorem State.tick_readByte (z : Nat) : (s.tick).readByte z = s.readByte z := rfl
@[simp] theorem State.present_readByte (z : Nat) : (s.present).readByte z = s.readByte z := rfl
@[simp] theorem State.endCycle_readByte (z : Nat) : (s.endCycle).readByte z = s.readByte z := rfl
@[simp] theorem State.hostActs_readByte (z : Nat) : (s.hostActs).readByte z = s.readByte z := rfl
@[simp] theorem State.loadBlock_readByte (a : Nat) (x : Reg) (z : Nat) : (s.loadBlock a x).readByte z = s.readByte z := rfl
@[simp] theorem State.bumpI_readByte (x : Reg) (z : Nat) : (s.bumpI x).readByte z = s.readByte z := by simp [State.readByte]

/-- R60: read after write, at the same address and at any other. -/
theorem State.readByte_writeByte (a a' : Nat) (b : Byte) :
    (s.writeByte a b).readByte a' = if a' = a then b else s.readByte a' := by
  by_cases h : a' = a
  · subst h; simp [State.readByte]
  · simp [State.readByte, h, Memory.read_write_other _ _ _ _ _ h]

/-- A block write leaves every byte below it alone. -/
theorem State.readByte_writeBytes_below (a a' : Nat) (bs : List Byte) (h : a' < a) :
    (s.writeBytes a bs).readByte a' = s.readByte a' := by
  induction bs generalizing s a with
  | nil => rfl
  | cons b rest ih =>
    rw [State.writeBytes, ih _ (a + 1) (by omega), State.readByte_writeByte, if_neg (by omega)]

/-- What a block write leaves in memory: byte `j` of the block at `a + j`, and every other byte as before. -/
theorem State.readByte_writeBytes (a a' : Nat) (bs : List Byte) :
    (s.writeBytes a bs).readByte a' =
      if h : a ≤ a' ∧ a' - a < bs.length then bs[a' - a] else s.readByte a' := by
  induction bs generalizing s a with
  | nil => simp [State.writeBytes]
  | cons b rest ih =>
    rw [State.writeBytes]
    by_cases hlt : a' < a
    · rw [State.readByte_writeBytes_below _ _ _ _ (by omega), State.readByte_writeByte, if_neg (by omega),
        dif_neg (by omega)]
    · by_cases heq : a' = a
      · subst heq
        rw [State.readByte_writeBytes_below _ _ _ _ (by omega), State.readByte_writeByte, if_pos rfl]
        simp
      · obtain ⟨j, rfl⟩ : ∃ j, a' = a + 1 + j := ⟨a' - a - 1, by omega⟩
        have hj : a + 1 + j - a = j + 1 := by omega
        rw [ih]
        simp only [State.readByte_writeByte, if_neg heq, List.length_cons, hj, List.getElem_cons_succ,
          Nat.add_sub_cancel_left]
        by_cases hl : j < rest.length
        · rw [dif_pos ⟨by omega, hl⟩, dif_pos ⟨by omega, by omega⟩]
        · rw [dif_neg (by omega), dif_neg (by omega)]

theorem State.readByte_writeBytes_outside (a a' : Nat) (bs : List Byte) (h : a' < a ∨ a + bs.length ≤ a') :
    (s.writeBytes a bs).readByte a' = s.readByte a' := by
  rw [State.readByte_writeBytes, dif_neg (by omega)]

theorem State.readByte_writeBytes_at (a j : Nat) (bs : List Byte) (h : j < bs.length) :
    (s.writeBytes a bs).readByte (a + j) = bs[j] := by
  rw [State.readByte_writeBytes, dif_pos (by omega)]; simp

@[simp] theorem State.length_readBytes (a n : Nat) : (s.readBytes a n).length = n := by
  induction n generalizing a with
  | zero => rfl
  | succ n ih => simp [State.readBytes, ih]

theorem State.getElem_readBytes (a n j : Nat) (h : j < (s.readBytes a n).length) :
    (s.readBytes a n)[j] = s.readByte (a + j) := by
  induction n generalizing a j with
  | zero => simp [State.readBytes] at h
  | succ n ih =>
    cases j with
    | zero => rfl
    | succ j =>
      simp only [State.readBytes, List.getElem_cons_succ]
      rw [ih, Nat.add_assoc, Nat.add_comm 1 j]

/-- A block write inside memory keeps the canonical form. -/
theorem State.writeBytes_wf (a : Nat) (bs : List Byte) (hm : Memory.wf s.cfg s.mem)
    (ha : a + bs.length ≤ Config.memSize) : Memory.wf (s.writeBytes a bs).cfg (s.writeBytes a bs).mem := by
  induction bs generalizing s a with
  | nil => exact hm
  | cons b rest ih =>
    have hl : a + (rest.length + 1) ≤ Config.memSize := ha
    exact ih (s.writeByte a b) (a + 1) (Memory.wf_write _ _ _ _ hm (by omega)) (by omega)

/-! ### Ranges (R10, R52) -/

theorem rangeError_eq_none_iff (a n : Nat) : rangeError a n = none ↔ n = 0 ∨ a + n ≤ 4096 := by
  unfold rangeError; split <;> simp_all

theorem rangeError_eq_some_iff (a n addr : Nat) :
    rangeError a n = some addr ↔ (n ≠ 0 ∧ 4096 < a + n) ∧ addr = max a 4096 := by
  unfold rangeError
  simp only [Config.memSize]
  split
  · simp; omega
  · simp; omega

/-! ### Blocks, flags and keys -/

@[simp] theorem length_regBlock (x : Reg) : (s.regBlock x).length = x.val + 1 := by
  have := x.isLt
  simp [State.regBlock, blockLength]

theorem getElem_regBlock (x : Reg) (j : Nat) (h : j < (s.regBlock x).length) :
    (s.regBlock x)[j] = s.reg ⟨j, by have := x.isLt; simp at h; omega⟩ := by
  simp [State.regBlock, State.reg]

/-- R152: the register range never exceeds the file. -/
@[simp] theorem blockPastVF_eq_false (x : Reg) : blockPastVF x = false := by
  have := x.isLt
  simp [blockPastVF, blockLength]

theorem flagByte_eq_one_iff (f : Bool) : flagByte f = 1 ↔ f = true := by cases f <;> decide

theorem keyIndex_of_lt (b : Byte) (h : b.toNat < 16) : keyIndex b = some ⟨b.toNat, h⟩ := by simp [keyIndex, h]

theorem keyIndex_of_ge (b : Byte) (h : 15 < b.toNat) : keyIndex b = none := by
  simp [keyIndex, show ¬ b.toNat < 16 by omega]

@[simp] theorem keyByte_toNat (k : Fin 16) : (keyByte k).toNat = k.val := by
  have := k.isLt
  simp [keyByte]; omega

theorem mem_allKeys (k : Fin 16) : k ∈ allKeys := by revert k; decide

theorem allKeys_rising : allKeys.Pairwise (· < ·) := by decide

/-- Searching a rising list finds the least element that qualifies. -/
theorem find_rising_eq_some_iff (p : Fin 16 → Bool) (l : List (Fin 16)) (hl : l.Pairwise (· < ·)) (k : Fin 16) :
    l.find? p = some k ↔ k ∈ l ∧ p k = true ∧ ∀ j ∈ l, j < k → p j = false := by
  induction l with
  | nil => simp
  | cons a rest ih =>
    rw [List.pairwise_cons] at hl
    by_cases ha : p a = true
    · rw [List.find?_cons_of_pos ha]
      constructor
      · intro h
        obtain rfl : a = k := by simpa using h
        refine ⟨by simp, ha, fun j hj hlt => ?_⟩
        rcases List.mem_cons.1 hj with rfl | hj
        · exact absurd hlt (lt_irrefl _)
        · exact absurd (hl.1 j hj) (not_lt.2 hlt.le)
      · rintro ⟨hk, -, hmin⟩
        rcases List.mem_cons.1 hk with rfl | hk
        · rfl
        · exact absurd ha (by simp [hmin a (by simp) (hl.1 k hk)])
    · rw [List.find?_cons_of_neg ha, ih hl.2]
      constructor
      · rintro ⟨hk, hp, hmin⟩
        refine ⟨by simp [hk], hp, fun j hj hlt => ?_⟩
        rcases List.mem_cons.1 hj with rfl | hj
        · simpa using ha
        · exact hmin j hj hlt
      · rintro ⟨hk, hp, hmin⟩
        rcases List.mem_cons.1 hk with rfl | hk
        · exact absurd hp ha
        · exact ⟨hk, hp, fun j hj => hmin j (by simp [hj])⟩

/-- R242: the key chosen is the lowest-indexed pressed one. -/
theorem lowestKey_eq_some_iff (k : Fin 16) :
    s.lowestKey = some k ↔ s.keyDown k = true ∧ ∀ j < k, s.keyDown j = false := by
  rw [State.lowestKey, find_rising_eq_some_iff _ _ allKeys_rising]
  simp [mem_allKeys]

/-- R241: no key is chosen exactly when none is pressed. -/
theorem lowestKey_eq_none_iff : s.lowestKey = none ↔ ∀ k, s.keyDown k = false := by
  simp [State.lowestKey, List.find?_eq_none, mem_allKeys]

/-- A latch of 0 is no key down. -/
theorem lowestKey_eq_none_iff_key : s.lowestKey = none ↔ s.key = 0 := by
  rw [lowestKey_eq_none_iff]
  constructor
  · intro h
    apply BitVec.eq_of_getLsbD_eq
    intro j hj
    simpa [State.keyDown] using h ⟨j, hj⟩
  · intro h k
    simp [State.keyDown, h]

end Sys2Proof.Machine
end

