-- ==== Sys2Proof/Laws/Blit.lean ====
section
/-! SUPPORT. What drawing a sprite does to the bitmap, pixel by pixel (spec/43_display.md R200 to R202): because no pixel is
met twice, the loop is one XOR with the set of covered pixels, and the collision is one look at the bitmap before. -/

namespace Sys2Proof.Machine

/-! ### One pixel -/

theorem getElem_toggle (d : Display) (r r' : Fin 32) (c c' : Fin 64) :
    (Display.toggle d r c)[r'][c'] = (d[r'][c'] ^^ (decide (r = r') && decide (c = c'))) := by
  by_cases hr : r = r'
  · subst hr
    by_cases hc : c = c'
    · subst hc; simp [Display.toggle]
    · have : c.val ≠ c'.val := fun h => hc (Fin.ext h)
      simp [Display.toggle, hc, this]
  · have : r.val ≠ r'.val := fun h => hr (Fin.ext h)
    simp [Display.toggle, hr, this]

@[simp] theorem getElem_blank (r : Fin 32) (c : Fin 64) : Display.blank[r][c] = false := by
  simp [Display.blank]

/-! ### The torus -/

/-- Eight columns in a row are eight different columns of the torus (R201). -/
theorem wrapColumn_inj (x0 : Byte) (k k' : Nat) (h : k < 64) (h' : k' < 64) (he : wrapColumn x0 k = wrapColumn x0 k') :
    k = k' := by
  have := congrArg Fin.val he
  simp [wrapColumn] at this
  omega

/-- Fewer than 32 rows are different rows of the torus (R201). -/
theorem wrapRow_inj (y0 : Byte) (j j' : Nat) (h : j ≤ j') (hlt : j' - j < 32) (he : wrapRow y0 j = wrapRow y0 j') :
    j = j' := by
  have := congrArg Fin.val he
  simp [wrapRow] at this
  omega

/-! ### One sprite row -/

/-- The columns `ks` of sprite row `b` that are set and land on display column `c`. -/
def columnsCover (x0 : Byte) (b : Byte) (ks : List Nat) (c : Fin 64) : Bool :=
  ks.any fun k => b.getLsbD (7 - k) && decide (wrapColumn x0 k = c)

theorem columnsCover_cons (x0 b : Byte) (k : Nat) (rest : List Nat) (c : Fin 64) :
    columnsCover x0 b (k :: rest) c =
      ((b.getLsbD (7 - k) && decide (wrapColumn x0 k = c)) || columnsCover x0 b rest c) := rfl

theorem columnsCover_iff (x0 b : Byte) (ks : List Nat) (c : Fin 64) :
    columnsCover x0 b ks c = true ↔ ∃ k ∈ ks, b.getLsbD (7 - k) = true ∧ wrapColumn x0 k = c := by
  simp [columnsCover]

theorem blitColumn_disp (x0 : Byte) (row : Fin 32) (b : Byte) (acc : Blit) (k : Nat) (r : Fin 32) (c : Fin 64) :
    (blitColumn x0 row b acc k).disp[r][c] =
      (acc.disp[r][c] ^^ (decide (row = r) && (b.getLsbD (7 - k) && decide (wrapColumn x0 k = c)))) := by
  unfold blitColumn blitPixel
  split
  · rename_i h; rw [getElem_toggle]; simp [h]
  · rename_i h; simp [h]

theorem blitColumn_collision (x0 : Byte) (row : Fin 32) (b : Byte) (acc : Blit) (k : Nat) :
    (blitColumn x0 row b acc k).collision =
      (acc.collision || (b.getLsbD (7 - k) && acc.disp[row][wrapColumn x0 k])) := by
  unfold blitColumn blitPixel
  split
  · rename_i h; simp [h]
  · rename_i h; simp [h]

/-- The columns `ks`, all different on the torus, drawn one after the other. -/
theorem foldl_blitColumn (x0 : Byte) (row : Fin 32) (b : Byte) (ks : List Nat) (acc : Blit)
    (hks : ks.Pairwise fun k k' => wrapColumn x0 k ≠ wrapColumn x0 k') :
    (∀ r : Fin 32, ∀ c : Fin 64, (ks.foldl (blitColumn x0 row b) acc).disp[r][c] =
      (acc.disp[r][c] ^^ (decide (row = r) && columnsCover x0 b ks c))) ∧
    ((ks.foldl (blitColumn x0 row b) acc).collision = true ↔
      acc.collision = true ∨ ∃ c : Fin 64, columnsCover x0 b ks c = true ∧ acc.disp[row][c] = true) := by
  induction ks generalizing acc with
  | nil => simp [columnsCover]
  | cons k rest ih =>
    rw [List.pairwise_cons] at hks
    obtain ⟨ihd, ihc⟩ := ih (blitColumn x0 row b acc k) hks.2
    have hnot : columnsCover x0 b rest (wrapColumn x0 k) = false := by
      rw [Bool.eq_false_iff]
      intro h
      obtain ⟨k', hk', -, he⟩ := (columnsCover_iff ..).1 h
      exact hks.1 k' hk' he.symm
    constructor
    · intro r c
      rw [List.foldl_cons, ihd, blitColumn_disp, columnsCover_cons]
      by_cases hc : wrapColumn x0 k = c
      · subst hc; simp [hnot]
      · simp [hc]
    · rw [List.foldl_cons, ihc, blitColumn_collision]
      constructor
      · rintro (h | ⟨c, hc, hd⟩)
        · rw [Bool.or_eq_true, Bool.and_eq_true] at h
          rcases h with h | ⟨hb, hp⟩
          · exact .inl h
          · exact .inr ⟨wrapColumn x0 k, by simp [columnsCover_cons, hb], hp⟩
        · refine .inr ⟨c, by simp [columnsCover_cons, hc], ?_⟩
          rw [blitColumn_disp] at hd
          by_cases he : wrapColumn x0 k = c
          · subst he; simp [hnot] at hc
          · simpa [he] using hd
      · rintro (h | ⟨c, hc, hd⟩)
        · exact .inl (by simp [h])
        · simp only [columnsCover_cons, Bool.or_eq_true, Bool.and_eq_true, decide_eq_true_eq] at hc
          rcases hc with ⟨hb, he⟩ | hc
          · subst he; exact .inl (by rw [hb, hd]; simp)
          · refine .inr ⟨c, hc, ?_⟩
            rw [blitColumn_disp]
            by_cases he : wrapColumn x0 k = c
            · subst he; simp [hnot] at hc
            · simpa [he] using hd

/-- The eight columns of a sprite row. -/
abbrev eightColumns : List Nat := [0, 1, 2, 3, 4, 5, 6, 7]

theorem eightColumns_distinct (x0 : Byte) :
    eightColumns.Pairwise fun k k' => wrapColumn x0 k ≠ wrapColumn x0 k' := by
  have h : eightColumns.Pairwise fun k k' => k < 64 ∧ k' < 64 ∧ k ≠ k' := by decide
  exact h.imp fun {k k'} ⟨hk, hk', hne⟩ he => hne (wrapColumn_inj x0 k k' hk hk' he)

theorem blitRow_disp (x0 : Byte) (row : Fin 32) (b : Byte) (acc : Blit) (r : Fin 32) (c : Fin 64) :
    (blitRow x0 row b acc).disp[r][c] = (acc.disp[r][c] ^^ (decide (row = r) && columnsCover x0 b eightColumns c)) :=
  (foldl_blitColumn x0 row b eightColumns acc (eightColumns_distinct x0)).1 r c

theorem blitRow_collision (x0 : Byte) (row : Fin 32) (b : Byte) (acc : Blit) :
    (blitRow x0 row b acc).collision = true ↔
      acc.collision = true ∨ ∃ c : Fin 64, columnsCover x0 b eightColumns c = true ∧ acc.disp[row][c] = true :=
  (foldl_blitColumn x0 row b eightColumns acc (eightColumns_distinct x0)).2

/-! ### The whole sprite -/

/-- The pixels a sprite covers: a set bit of some row `j` lands on (r, c) (R201). -/
def rowsCover (x0 y0 : Byte) : Nat → List Byte → Fin 32 → Fin 64 → Bool
  | _, [], _, _ => false
  | j, b :: rest, r, c =>
    (decide (wrapRow y0 j = r) && columnsCover x0 b eightColumns c) || rowsCover x0 y0 (j + 1) rest r c

theorem rowsCover_iff (x0 y0 : Byte) (j : Nat) (bs : List Byte) (r : Fin 32) (c : Fin 64) :
    rowsCover x0 y0 j bs r c = true ↔
      ∃ i, ∃ h : i < bs.length, ∃ k < 8,
        bs[i].getLsbD (7 - k) = true ∧ wrapRow y0 (j + i) = r ∧ wrapColumn x0 k = c := by
  induction bs generalizing j with
  | nil => simp [rowsCover]
  | cons b rest ih =>
    rw [rowsCover, Bool.or_eq_true, Bool.and_eq_true, decide_eq_true_eq, ih, columnsCover_iff]
    constructor
    · rintro (⟨hr, k, hk, hb, hc⟩ | ⟨i, hi, k, hk, hb, hr, hc⟩)
      · refine ⟨0, by simp, k, ?_, by simpa using hb, by simpa using hr, hc⟩
        simp at hk; omega
      · exact ⟨i + 1, by simpa using hi, k, hk, by simpa using hb, by rwa [← Nat.add_assoc, Nat.add_right_comm], hc⟩
    · rintro ⟨i, hi, k, hk, hb, hr, hc⟩
      cases i with
      | zero => exact .inl ⟨by simpa using hr, k, by simp; omega, by simpa using hb, hc⟩
      | succ i =>
        exact .inr ⟨i, by simpa using hi, k, hk, by simpa using hb, by rwa [Nat.add_right_comm, Nat.add_assoc], hc⟩

/-- No later row of a sprite of at most 32 rows comes back to row `j`. -/
theorem rowsCover_of_passed (x0 y0 : Byte) (j : Nat) (bs : List Byte) (hlen : bs.length < 32) (c : Fin 64) :
    rowsCover x0 y0 (j + 1) bs (wrapRow y0 j) c = false := by
  rw [Bool.eq_false_iff]
  intro h
  obtain ⟨i, hi, k, -, -, hr, -⟩ := (rowsCover_iff ..).1 h
  have := wrapRow_inj y0 j (j + 1 + i) (by omega) (by omega) hr.symm
  omega

theorem blitRows_spec (x0 y0 : Byte) (j : Nat) (bs : List Byte) (acc : Blit) (hlen : bs.length ≤ 32) :
    (∀ r : Fin 32, ∀ c : Fin 64,
      (blitRows x0 y0 j bs acc).disp[r][c] = (acc.disp[r][c] ^^ rowsCover x0 y0 j bs r c)) ∧
    ((blitRows x0 y0 j bs acc).collision = true ↔
      acc.collision = true ∨ ∃ r : Fin 32, ∃ c : Fin 64, rowsCover x0 y0 j bs r c = true ∧ acc.disp[r][c] = true) := by
  induction bs generalizing j acc with
  | nil => simp [blitRows, rowsCover]
  | cons b rest ih =>
    have hrest : rest.length < 32 := by simpa using hlen
    obtain ⟨ihd, ihc⟩ := ih (j + 1) (blitRow x0 (wrapRow y0 j) b acc) (by omega)
    have hpass := rowsCover_of_passed x0 y0 j rest hrest
    constructor
    · intro r c
      rw [blitRows, ihd, blitRow_disp, rowsCover]
      by_cases hr : wrapRow y0 j = r
      · subst hr; simp [hpass]
      · simp [hr]
    · rw [blitRows, ihc, blitRow_collision]
      constructor
      · rintro ((h | ⟨c, hc, hd⟩) | ⟨r, c, hc, hd⟩)
        · exact .inl h
        · exact .inr ⟨wrapRow y0 j, c, by simp [rowsCover, hc], hd⟩
        · refine .inr ⟨r, c, by simp [rowsCover, hc], ?_⟩
          rw [blitRow_disp] at hd
          by_cases hr : wrapRow y0 j = r
          · subst hr; simp [hpass] at hc
          · simpa [hr] using hd
      · rintro (h | ⟨r, c, hc, hd⟩)
        · exact .inl (.inl h)
        · simp only [rowsCover, Bool.or_eq_true, Bool.and_eq_true, decide_eq_true_eq] at hc
          rcases hc with ⟨hr, hc⟩ | hc
          · subst hr; exact .inl (.inr ⟨c, hc, hd⟩)
          · refine .inr ⟨r, c, hc, ?_⟩
            rw [blitRow_disp]
            by_cases hr : wrapRow y0 j = r
            · subst hr; simp [hpass] at hc
            · simpa [hr] using hd

/-- R200, R201: drawing is one XOR with the pixels the sprite covers. -/
theorem blit_disp (x0 y0 : Byte) (bs : List Byte) (d : Display) (hlen : bs.length ≤ 32) (r : Fin 32) (c : Fin 64) :
    (blit x0 y0 bs d).disp[r][c] = (d[r][c] ^^ rowsCover x0 y0 0 bs r c) :=
  (blitRows_spec x0 y0 0 bs ⟨d, false⟩ hlen).1 r c

/-- R202: a collision is a covered pixel that was set. -/
theorem blit_collision (x0 y0 : Byte) (bs : List Byte) (d : Display) (hlen : bs.length ≤ 32) :
    (blit x0 y0 bs d).collision = true ↔
      ∃ r : Fin 32, ∃ c : Fin 64, rowsCover x0 y0 0 bs r c = true ∧ d[r][c] = true := by
  have h := (blitRows_spec x0 y0 0 bs ⟨d, false⟩ hlen).2
  simpa [blit] using h

end Sys2Proof.Machine
end

