-- ==== Sys2Proof/Laws/Decode.lean ====
section
/-! SUPPORT. The fields of a word given as a number, and of the two bytes it lies in. -/

namespace Sys2Proof

/-- A field of a word given as a number below 2^16. -/
theorem field_ofNat (v hi lo : Nat) (h : v < 65536) :
    Word.field (BitVec.ofNat 16 v) hi lo = v / 2 ^ lo % 2 ^ (hi + 1 - lo) := by
  simp [Word.field, Nat.mod_eq_of_lt h]

theorem field_lt (w : Word) (hi lo : Nat) : Word.field w hi lo < 2 ^ (hi + 1 - lo) :=
  Nat.mod_lt _ (by positivity)

/-- A word is the bytes it is stored as, the first one most significant (R53). -/
@[simp] theorem wordOfBytes_hi_lo (w : Word) : wordOfBytes (Word.hiByte w) (Word.loByte w) = w := by
  have := w.isLt
  apply BitVec.eq_of_toNat_eq
  simp [wordOfBytes, Word.hiByte, Word.loByte]
  omega

theorem Reg.ofNat_val (x : Reg) : Fin.ofNat 16 x.val = x := by
  have := x.isLt
  ext; simp

/-- A word as the sum of its four nibbles (R71). -/
theorem word_toNat_eq (w : Word) :
    w.toNat = Word.field w 15 12 * 0x1000 + Word.field w 11 8 * 0x100 + Word.field w 7 4 * 0x10 + Word.field w 3 0 := by
  have := w.isLt
  simp [Word.field]
  omega

/-- The immediate byte as its two nibbles. -/
theorem kk_eq (w : Word) : Word.field w 7 0 = Word.field w 7 4 * 0x10 + Word.field w 3 0 := by
  simp [Word.field]
  omega

/-- The address field as its three nibbles. -/
theorem nnn_eq (w : Word) :
    Word.field w 11 0 = Word.field w 11 8 * 0x100 + Word.field w 7 4 * 0x10 + Word.field w 3 0 := by
  simp [Word.field]
  omega

end Sys2Proof
end

