-- ==== Sys2Proof/Laws/Engine.lean ====
section
/-! SUPPORT. What a step can do, said once: the cases of fetching and executing, and of a step. -/

namespace Sys2Proof.Machine

@[simp] theorem mapNext_next (f : State → State) (s : State) : mapNext f (.next s) = .next (f s) := rfl

theorem mapNext_eq_next_iff (f : State → State) (r : Result) (t : State) :
    mapNext f r = .next t ↔ ∃ s, r = .next s ∧ f s = t := by
  cases r <;> simp [mapNext]

variable {s t : State}

/-! ### A step in each mode -/

theorem step_running (h : s.mode = .running) : step s = mapNext State.hostActs (cycle s.clearOutputs) := by
  simp [step, engineStep, h]

theorem step_awaiting {x : Reg} (h : s.mode = .awaitingKey x) :
    step s = mapNext State.hostActs (waitIteration x s.clearOutputs) := by
  simp [step, engineStep, h]

theorem step_halted_error {e : ErrorRecord} (h : s.mode = .halted (.error e)) : step s = .fault (.error e) := by
  simp [step, engineStep, h]

theorem step_halted_quit (h : s.mode = .halted .quit) : step s = .fault .quit := by
  simp [step, engineStep, h]

/-! ### Phase 2 -/

theorem execute_of_fetch_error {addr : Nat} (h : rangeError s.pc.toNat 2 = some addr) :
    execute s = .next (s.halt (.error (.boundsError .fetch s.pc none addr))) := by
  simp [execute, h, State.raise]

theorem execute_of_illegal {r : DecodeReject} (hf : s.pc.toNat + 2 ≤ Config.memSize)
    (h : decode s.cfg s.fetchWord = .error r) : execute s = .next (s.halt (.error (.decodeError s.pc s.fetchWord))) := by
  have hr : rangeError s.pc.toNat 2 = none := (rangeError_eq_none_iff _ _).2 (.inr hf)
  simp [execute, hr, h, State.raise]

theorem execute_of_decode {i : Instr} (hf : s.pc.toNat + 2 ≤ Config.memSize)
    (h : decode s.cfg s.fetchWord = .ok i) : execute s = exec i s := by
  have hr : rangeError s.pc.toNat 2 = none := (rangeError_eq_none_iff _ _).2 (.inr hf)
  simp [execute, hr, h]

/-- Everything phase 2 can do (R102, R103). -/
theorem execute_cases (h : execute s = .next t) :
    (∃ addr, rangeError s.pc.toNat 2 = some addr ∧ t = s.halt (.error (.boundsError .fetch s.pc none addr))) ∨
    (s.pc.toNat + 2 ≤ Config.memSize ∧ (∃ r, decode s.cfg s.fetchWord = .error r) ∧
      t = s.halt (.error (.decodeError s.pc s.fetchWord))) ∨
    (s.pc.toNat + 2 ≤ Config.memSize ∧ ∃ i, decode s.cfg s.fetchWord = .ok i ∧ exec i s = .next t) := by
  cases hr : rangeError s.pc.toNat 2 with
  | some addr =>
    rw [execute_of_fetch_error hr] at h
    exact .inl ⟨addr, rfl, by simpa using h.symm⟩
  | none =>
    have hf : s.pc.toNat + 2 ≤ Config.memSize := ((rangeError_eq_none_iff _ _).1 hr).resolve_left (by decide)
    cases hd : decode s.cfg s.fetchWord with
    | error r =>
      rw [execute_of_illegal hf hd] at h
      exact .inr (.inl ⟨hf, ⟨r, rfl⟩, by simpa using h.symm⟩)
    | ok i =>
      rw [execute_of_decode hf hd] at h
      exact .inr (.inr ⟨hf, i, rfl, h⟩)

/-! ### A step -/

/-- The state an outer cycle hands to the instruction: outputs cleared, keys refreshed (R101 phase 1). -/
def State.atPhase2 (s : State) : State := s.clearOutputs.refreshKeys

/-- Everything a step can do: quit is observed; or one outer cycle; or a wait iteration that completes; or one that finds no
key. Then the host acts. -/
theorem step_cases (h : step s = .next t) :
    ∃ u, t = u.hostActs ∧
      ((s.quitIn = true ∧ (s.mode = .running ∨ ∃ x, s.mode = .awaitingKey x) ∧ u = s.clearOutputs.halt .quit) ∨
       (s.quitIn = false ∧ s.mode = .running ∧ ∃ v, execute s.atPhase2 = .next v ∧ u = v.finishCycle) ∨
       (s.quitIn = false ∧ ∃ x k, s.mode = .awaitingKey x ∧ s.atPhase2.lowestKey = some k ∧
          u = (s.atPhase2.takeKey x k).resume.endCycle) ∨
       (s.quitIn = false ∧ ∃ x, s.mode = .awaitingKey x ∧ s.atPhase2.lowestKey = none ∧ u = s.atPhase2)) := by
  cases hm : s.mode with
  | running =>
    rw [step_running hm, mapNext_eq_next_iff] at h
    obtain ⟨u, hu, rfl⟩ := h
    refine ⟨u, rfl, ?_⟩
    unfold cycle at hu
    cases hq : s.quitIn with
    | true =>
      left
      have : u = s.clearOutputs.halt .quit := by simpa [hq] using hu.symm
      simp [this]
    | false =>
      right; left
      rw [State.clearOutputs_quitIn, hq, if_neg (by decide), mapNext_eq_next_iff] at hu
      obtain ⟨v, hv, rfl⟩ := hu
      exact ⟨rfl, rfl, v, hv, rfl⟩
  | awaitingKey x =>
    rw [step_awaiting hm, mapNext_eq_next_iff] at h
    obtain ⟨u, hu, rfl⟩ := h
    refine ⟨u, rfl, ?_⟩
    unfold waitIteration at hu
    cases hq : s.quitIn with
    | true =>
      left
      have : u = s.clearOutputs.halt .quit := by simpa [hq] using hu.symm
      simp [this]
    | false =>
      rw [State.clearOutputs_quitIn, hq, if_neg (by decide)] at hu
      right; right
      cases hk : s.clearOutputs.refreshKeys.lowestKey with
      | some k =>
        left
        rw [hk] at hu
        exact ⟨rfl, x, k, rfl, hk, by cases hu; rfl⟩
      | none =>
        right
        rw [hk] at hu
        exact ⟨rfl, x, rfl, hk, by cases hu; rfl⟩
  | halted r =>
    cases r with
    | quit => rw [step_halted_quit hm] at h; cases h
    | error e => rw [step_halted_error hm] at h; cases h

/-- A quiet outer cycle is its instruction and what follows it. -/
theorem step_of_execute {v : State} (hm : s.mode = .running) (hq : s.quitIn = false)
    (h : execute s.atPhase2 = .next v) : step s = .next v.finishCycle.hostActs := by
  have hq' : s.clearOutputs.quitIn = false := hq
  rw [State.atPhase2] at h
  rw [step_running hm, cycle, hq', if_neg (by decide), h]
  rfl

@[simp] theorem atPhase2_fetchWord (s : State) : s.atPhase2.fetchWord = s.fetchWord := rfl
@[simp] theorem atPhase2_cfg (s : State) : s.atPhase2.cfg = s.cfg := rfl
@[simp] theorem atPhase2_pc (s : State) : s.atPhase2.pc = s.pc := rfl
@[simp] theorem atPhase2_key (s : State) : s.atPhase2.key = s.keysIn := rfl
@[simp] theorem atPhase2_mode (s : State) : s.atPhase2.mode = s.mode := rfl

theorem finishCycle_running (h : s.mode = .running) : s.finishCycle = s.endCycle := by simp [State.finishCycle, h]
theorem finishCycle_awaiting {x : Reg} (h : s.mode = .awaitingKey x) : s.finishCycle = s := by
  simp [State.finishCycle, h]
theorem finishCycle_halted {r : HaltReason} (h : s.mode = .halted r) : s.finishCycle = s := by
  simp [State.finishCycle, h]

/-! ### The wait iteration -/

/-- A wait iteration that finds a key (R243). -/
theorem step_of_key {x : Reg} {k : Fin 16} (hm : s.mode = .awaitingKey x) (hq : s.quitIn = false)
    (hk : s.atPhase2.lowestKey = some k) : step s = .next (s.atPhase2.takeKey x k).resume.endCycle.hostActs := by
  have hq' : s.clearOutputs.quitIn = false := hq
  rw [State.atPhase2] at hk
  rw [step_awaiting hm, waitIteration, hq', if_neg (by decide), hk]
  rfl

/-- A wait iteration that finds none (R243). -/
theorem step_of_no_key {x : Reg} (hm : s.mode = .awaitingKey x) (hq : s.quitIn = false)
    (hk : s.atPhase2.lowestKey = none) : step s = .next s.atPhase2.hostActs := by
  have hq' : s.clearOutputs.quitIn = false := hq
  rw [State.atPhase2] at hk
  rw [step_awaiting hm, waitIteration, hq', if_neg (by decide), hk]
  rfl

/-! ### The timers as numbers (R230, R231) -/

theorem tick_toNat (b : Byte) : (if b = 0 then (0 : Byte) else b - 1).toNat = b.toNat - 1 := by
  have hb := b.isLt
  by_cases h : b = 0
  · simp [h]
  · have h0 : b.toNat ≠ 0 := fun h0 => h (BitVec.eq_of_toNat_eq (by simpa using h0))
    rw [if_neg h, BitVec.toNat_sub]
    show (2 ^ 8 - 1 + b.toNat) % 2 ^ 8 = _
    omega

theorem beq_one_iff_toNat (b : Byte) : (b == 1) = true ↔ b.toNat = 1 := by
  rw [beq_iff_eq]
  constructor
  · rintro rfl; rfl
  · exact fun h => BitVec.eq_of_toNat_eq (by simpa using h)

/-! ### Runs -/

/-- A run is its first step and the run from there. -/
theorem run_succ (k : Nat) (h : step s = .next t) : Host.Core.run core (k + 1) s = Host.Core.run core k t := by
  simp only [Host.Core.run, core, h]

/-! ### The host's next input -/

theorem nextInput_of_queue {input : HostInput} {rest : List HostInput} (h : s.hostQueue = input :: rest) :
    s.nextInput = input := by simp [State.nextInput, h]

theorem nextInput_of_empty (h : s.hostQueue = []) :
    s.nextInput = ⟨Config.freeKeys s.drawCount, Config.freeQuit s.drawCount, Config.freeRnd s.drawCount⟩ := by
  simp [State.nextInput, h]

/-- The next input hangs on the queue and the draw count alone. -/
theorem nextInput_congr (hq : t.hostQueue = s.hostQueue) (hd : t.drawCount = s.drawCount) :
    t.nextInput = s.nextInput := by simp [State.nextInput, hq, hd]

end Sys2Proof.Machine
end

