-- ==== Sys2Proof/Laws/Exec.lean ====
section
/-! SUPPORT. What the instructions with a condition do on each side of it, and the frames of the shared endings. -/

namespace Sys2Proof.Machine

variable (s : State)

/-! ### Either side of the condition -/

theorem exec_callAddr_push (nnn : Addr12) (h : s.sp.val < Config.stackDepth) :
    exec (.callAddr nnn) s = .next ((s.push (s.pc + 2) h).setPc (zextAddr nnn)) := by
  simp only [exec, execCallAddr, dif_pos h]

theorem exec_callAddr_overflow (nnn : Addr12) (h : ¬ s.sp.val < Config.stackDepth) :
    exec (.callAddr nnn) s = s.raiseBounds (.callAddr nnn) .stackOverflow s.sp.val := by
  simp only [exec, execCallAddr, dif_neg h]

theorem exec_ret_pop (u : Nibble) (h : 0 < s.sp.val) : exec (.ret u) s = .next (s.popToPc h) := by
  simp only [exec, execRet, dif_pos h]

theorem exec_ret_underflow (u : Nibble) (h : ¬ 0 < s.sp.val) :
    exec (.ret u) s = s.raiseBounds (.ret u) .stackUnderflow s.sp.val := by
  simp only [exec, execRet, dif_neg h]

theorem exec_skp_key (x : Reg) (h : (s.reg x).toNat < 16) :
    exec (.skp x) s = .next (s.skipIf (s.keyDown ⟨(s.reg x).toNat, h⟩)) := by
  simp only [exec, execSkp, keyIndex_of_lt _ h]

theorem exec_skp_error (x : Reg) (h : 15 < (s.reg x).toNat) :
    exec (.skp x) s = s.raiseBounds (.skp x) .keyIndex (s.reg x).toNat := by
  simp only [exec, execSkp, keyIndex_of_ge _ h]

theorem exec_sknp_key (x : Reg) (h : (s.reg x).toNat < 16) :
    exec (.sknp x) s = .next (s.skipIf (!s.keyDown ⟨(s.reg x).toNat, h⟩)) := by
  simp only [exec, execSknp, keyIndex_of_lt _ h]

theorem exec_sknp_error (x : Reg) (h : 15 < (s.reg x).toNat) :
    exec (.sknp x) s = s.raiseBounds (.sknp x) .keyIndex (s.reg x).toNat := by
  simp only [exec, execSknp, keyIndex_of_ge _ h]

theorem exec_drw_draw (x y : Reg) (n : Nibble) (h : rangeError s.base n.toNat = none) :
    exec (.drw x y n) s =
      .next ((s.setDisplay (blit (s.reg x) (s.reg y) (s.readBytes s.base n.toNat) s.disp).disp).setFlag
        (blit (s.reg x) (s.reg y) (s.readBytes s.base n.toNat) s.disp).collision).advance := by
  simp only [exec, execDrw, h]

theorem exec_drw_error (x y : Reg) (n : Nibble) (addr : Nat) (h : rangeError s.base n.toNat = some addr) :
    exec (.drw x y n) s = s.raiseBounds (.drw x y n) .mem addr := by
  simp only [exec, execDrw, h]

theorem exec_ldBVx_store (x : Reg) (h : rangeError s.base 3 = none) :
    exec (.ldBVx x) s = .next (s.writeBytes s.base (bcdDigits (s.reg x))).advance := by
  simp only [exec, execLdBVx, h]

theorem exec_ldBVx_error (x : Reg) (addr : Nat) (h : rangeError s.base 3 = some addr) :
    exec (.ldBVx x) s = s.raiseBounds (.ldBVx x) .mem addr := by
  simp only [exec, execLdBVx, h]

theorem exec_ldMemVx_store (x : Reg) (h : rangeError s.base (blockLength x) = none) :
    exec (.ldMemVx x) s = .next ((s.writeBytes s.base (s.regBlock x)).bumpI x).advance := by
  simp [exec, execLdMemVx, h]

theorem exec_ldMemVx_error (x : Reg) (addr : Nat) (h : rangeError s.base (blockLength x) = some addr) :
    exec (.ldMemVx x) s = s.raiseBounds (.ldMemVx x) .mem addr := by
  simp [exec, execLdMemVx, h]

theorem exec_ldVxMem_load (x : Reg) (h : rangeError s.base (blockLength x) = none) :
    exec (.ldVxMem x) s = .next ((s.loadBlock s.base x).bumpI x).advance := by
  simp [exec, execLdVxMem, h]

theorem exec_ldVxMem_error (x : Reg) (addr : Nat) (h : rangeError s.base (blockLength x) = some addr) :
    exec (.ldVxMem x) s = s.raiseBounds (.ldVxMem x) .mem addr := by
  simp [exec, execLdVxMem, h]

theorem exec_ldVxK_take (x : Reg) (k : Fin 16) (h : s.lowestKey = some k) :
    exec (.ldVxK x) s = .next (s.takeKey x k) := by
  simp only [exec, execLdVxK, h]

theorem exec_ldVxK_wait (x : Reg) (h : s.lowestKey = none) : exec (.ldVxK x) s = .next (s.awaitKey x) := by
  simp only [exec, execLdVxK, h]

/-! ### Frames -/

/-- A register write and the advance. -/
theorem onlyRegs_setReg (x : Reg) (b : Byte) : OnlyRegs [x] s (s.setReg x b).advance := by
  refine ⟨fun z hz => ?_, fun _ => rfl, rfl, ⟨rfl, rfl⟩, ⟨rfl, rfl⟩, ⟨rfl, rfl⟩, ?_, rfl⟩
  · exact s.reg_setReg_other x z b (by simpa using hz)
  · simp [SameHost]

/-- A result, VF, and the advance. -/
theorem onlyRegs_setResultFlag (x : Reg) (b : Byte) (f : Bool) :
    OnlyRegs [x, Reg.vF] s (s.setResultFlag x b f).advance := by
  refine ⟨fun z hz => ?_, fun _ => rfl, rfl, ⟨rfl, rfl⟩, ⟨rfl, rfl⟩, ⟨rfl, rfl⟩, ?_, rfl⟩
  · obtain ⟨hx, hf⟩ : z ≠ x ∧ z ≠ Reg.vF := by simpa using hz
    simp [Ne.symm hx, Ne.symm hf]
  · simp [SameHost]

/-- A write of I and the advance. -/
theorem onlyIndex_setI (w : Word) : OnlyIndex s (s.setI w).advance :=
  ⟨fun _ _ => rfl, fun _ => rfl, ⟨rfl, rfl⟩, ⟨rfl, rfl⟩, ⟨rfl, rfl⟩, by simp [SameHost], rfl⟩

/-- A write of PC alone. -/
theorem onlyPc_setPc (w : Word) : OnlyPc s (s.setPc w) :=
  ⟨fun _ _ => rfl, fun _ => rfl, rfl, ⟨rfl, rfl⟩, ⟨rfl, rfl⟩, ⟨rfl, rfl⟩, by simp [SameHost], rfl⟩

/-- R262: entering `Halted` writes the mode alone. -/
theorem onlyMode_halt (r : HaltReason) : OnlyMode s (s.halt r) :=
  ⟨fun _ _ => rfl, fun _ => rfl, rfl, ⟨rfl, rfl⟩, ⟨rfl, rfl⟩, ⟨rfl, rfl⟩, by simp [SameHost], rfl⟩

/-- R241: entering AwaitingKey writes the mode alone. -/
theorem onlyMode_awaitKey (x : Reg) : OnlyMode s (s.awaitKey x) :=
  ⟨fun _ _ => rfl, fun _ => rfl, rfl, ⟨rfl, rfl⟩, ⟨rfl, rfl⟩, ⟨rfl, rfl⟩, by simp [SameHost], rfl⟩

end Sys2Proof.Machine
end

