-- ==== Sys2Proof/Laws/PerInstr.lean ====
section
/-! SUPPORT. The family FixedBits of per-instruction lemmas: every encoded word has its row's fixed bits (spec/30_encoding.md
R79), and its operand bits neither overlap them nor leave the word. -/

namespace Sys2Proof.Laws.FixedBits

/-- The word of an instruction belongs to the instruction's row, and is the row's pattern plus the operand bits. -/
def Statement (i : Instr) : Prop :=
  i.opRow.matchesWord (encode i) = true ∧ (encode i).toNat = i.opRow.pattern + i.operandBits

/-- The shape of every case: a number below 2^16 with the right nibbles. -/
theorem of_bounds (i : Instr) (hlt : i.opRow.pattern + i.operandBits < 65536)
    (hfix : ∀ f ∈ i.opRow.fixed,
      (i.opRow.pattern + i.operandBits) / 2 ^ f.lo % 2 ^ (f.hi + 1 - f.lo) = f.value) : Statement i := by
  refine ⟨List.all_eq_true.2 fun f hf => ?_, by simp [encode, Nat.mod_eq_of_lt hlt]⟩
  rw [encode, field_ofNat _ _ _ hlt, hfix f hf, beq_self_eq_true]

theorem cls (u : Nibble) : Statement (.cls u) := by
  have := u.isLt
  apply of_bounds <;>
    simp [Instr.opRow, Instr.operandBits, OpRow.pattern, OpRow.byByte] <;> omega

theorem ret (u : Nibble) : Statement (.ret u) := by
  have := u.isLt
  apply of_bounds <;>
    simp [Instr.opRow, Instr.operandBits, OpRow.pattern, OpRow.byByte] <;> omega

theorem jpAddr (nnn : Addr12) : Statement (.jpAddr nnn) := by
  have := nnn.isLt
  apply of_bounds <;>
    simp [Instr.opRow, Instr.operandBits, OpRow.pattern, OpRow.family] <;> omega

theorem callAddr (nnn : Addr12) : Statement (.callAddr nnn) := by
  have := nnn.isLt
  apply of_bounds <;>
    simp [Instr.opRow, Instr.operandBits, OpRow.pattern, OpRow.family] <;> omega

theorem seByte (x : Reg) (kk : Byte) : Statement (.seByte x kk) := by
  have := x.isLt
  have := kk.isLt
  apply of_bounds <;>
    simp [Instr.opRow, Instr.operandBits, OpRow.pattern, OpRow.family] <;> omega

theorem sneByte (x : Reg) (kk : Byte) : Statement (.sneByte x kk) := by
  have := x.isLt
  have := kk.isLt
  apply of_bounds <;>
    simp [Instr.opRow, Instr.operandBits, OpRow.pattern, OpRow.family] <;> omega

theorem seReg (x y : Reg) (u : Nibble) : Statement (.seReg x y u) := by
  have := x.isLt
  have := y.isLt
  have := u.isLt
  apply of_bounds <;>
    simp [Instr.opRow, Instr.operandBits, OpRow.pattern, OpRow.family] <;> omega

theorem ldByte (x : Reg) (kk : Byte) : Statement (.ldByte x kk) := by
  have := x.isLt
  have := kk.isLt
  apply of_bounds <;>
    simp [Instr.opRow, Instr.operandBits, OpRow.pattern, OpRow.family] <;> omega

theorem addByte (x : Reg) (kk : Byte) : Statement (.addByte x kk) := by
  have := x.isLt
  have := kk.isLt
  apply of_bounds <;>
    simp [Instr.opRow, Instr.operandBits, OpRow.pattern, OpRow.family] <;> omega

theorem ldReg (x y : Reg) : Statement (.ldReg x y) := by
  have := x.isLt
  have := y.isLt
  apply of_bounds <;>
    simp [Instr.opRow, Instr.operandBits, OpRow.pattern, OpRow.byNibble] <;> omega

theorem orReg (x y : Reg) : Statement (.orReg x y) := by
  have := x.isLt
  have := y.isLt
  apply of_bounds <;>
    simp [Instr.opRow, Instr.operandBits, OpRow.pattern, OpRow.byNibble] <;> omega

theorem andReg (x y : Reg) : Statement (.andReg x y) := by
  have := x.isLt
  have := y.isLt
  apply of_bounds <;>
    simp [Instr.opRow, Instr.operandBits, OpRow.pattern, OpRow.byNibble] <;> omega

theorem xorReg (x y : Reg) : Statement (.xorReg x y) := by
  have := x.isLt
  have := y.isLt
  apply of_bounds <;>
    simp [Instr.opRow, Instr.operandBits, OpRow.pattern, OpRow.byNibble] <;> omega

theorem addReg (x y : Reg) : Statement (.addReg x y) := by
  have := x.isLt
  have := y.isLt
  apply of_bounds <;>
    simp [Instr.opRow, Instr.operandBits, OpRow.pattern, OpRow.byNibble] <;> omega

theorem subReg (x y : Reg) : Statement (.subReg x y) := by
  have := x.isLt
  have := y.isLt
  apply of_bounds <;>
    simp [Instr.opRow, Instr.operandBits, OpRow.pattern, OpRow.byNibble] <;> omega

theorem shrReg (x y : Reg) : Statement (.shrReg x y) := by
  have := x.isLt
  have := y.isLt
  apply of_bounds <;>
    simp [Instr.opRow, Instr.operandBits, OpRow.pattern, OpRow.byNibble] <;> omega

theorem subnReg (x y : Reg) : Statement (.subnReg x y) := by
  have := x.isLt
  have := y.isLt
  apply of_bounds <;>
    simp [Instr.opRow, Instr.operandBits, OpRow.pattern, OpRow.byNibble] <;> omega

theorem shlReg (x y : Reg) : Statement (.shlReg x y) := by
  have := x.isLt
  have := y.isLt
  apply of_bounds <;>
    simp [Instr.opRow, Instr.operandBits, OpRow.pattern, OpRow.byNibble] <;> omega

theorem sneReg (x y : Reg) (u : Nibble) : Statement (.sneReg x y u) := by
  have := x.isLt
  have := y.isLt
  have := u.isLt
  apply of_bounds <;>
    simp [Instr.opRow, Instr.operandBits, OpRow.pattern, OpRow.family] <;> omega

theorem ldI (nnn : Addr12) : Statement (.ldI nnn) := by
  have := nnn.isLt
  apply of_bounds <;>
    simp [Instr.opRow, Instr.operandBits, OpRow.pattern, OpRow.family] <;> omega

theorem jpV0 (nnn : Addr12) : Statement (.jpV0 nnn) := by
  have := nnn.isLt
  apply of_bounds <;>
    simp [Instr.opRow, Instr.operandBits, OpRow.pattern, OpRow.family] <;> omega

theorem rnd (x : Reg) (kk : Byte) : Statement (.rnd x kk) := by
  have := x.isLt
  have := kk.isLt
  apply of_bounds <;>
    simp [Instr.opRow, Instr.operandBits, OpRow.pattern, OpRow.family] <;> omega

theorem drw (x y : Reg) (n : Nibble) : Statement (.drw x y n) := by
  have := x.isLt
  have := y.isLt
  have := n.isLt
  apply of_bounds <;>
    simp [Instr.opRow, Instr.operandBits, OpRow.pattern, OpRow.family] <;> omega

theorem skp (x : Reg) : Statement (.skp x) := by
  have := x.isLt
  apply of_bounds <;>
    simp [Instr.opRow, Instr.operandBits, OpRow.pattern, OpRow.byByte] <;> omega

theorem sknp (x : Reg) : Statement (.sknp x) := by
  have := x.isLt
  apply of_bounds <;>
    simp [Instr.opRow, Instr.operandBits, OpRow.pattern, OpRow.byByte] <;> omega

theorem ldVxDT (x : Reg) : Statement (.ldVxDT x) := by
  have := x.isLt
  apply of_bounds <;>
    simp [Instr.opRow, Instr.operandBits, OpRow.pattern, OpRow.byByte] <;> omega

theorem ldVxK (x : Reg) : Statement (.ldVxK x) := by
  have := x.isLt
  apply of_bounds <;>
    simp [Instr.opRow, Instr.operandBits, OpRow.pattern, OpRow.byByte] <;> omega

theorem ldDTVx (x : Reg) : Statement (.ldDTVx x) := by
  have := x.isLt
  apply of_bounds <;>
    simp [Instr.opRow, Instr.operandBits, OpRow.pattern, OpRow.byByte] <;> omega

theorem ldSTVx (x : Reg) : Statement (.ldSTVx x) := by
  have := x.isLt
  apply of_bounds <;>
    simp [Instr.opRow, Instr.operandBits, OpRow.pattern, OpRow.byByte] <;> omega

theorem addIVx (x : Reg) : Statement (.addIVx x) := by
  have := x.isLt
  apply of_bounds <;>
    simp [Instr.opRow, Instr.operandBits, OpRow.pattern, OpRow.byByte] <;> omega

theorem ldFVx (x : Reg) : Statement (.ldFVx x) := by
  have := x.isLt
  apply of_bounds <;>
    simp [Instr.opRow, Instr.operandBits, OpRow.pattern, OpRow.byByte] <;> omega

theorem ldBVx (x : Reg) : Statement (.ldBVx x) := by
  have := x.isLt
  apply of_bounds <;>
    simp [Instr.opRow, Instr.operandBits, OpRow.pattern, OpRow.byByte] <;> omega

theorem ldMemVx (x : Reg) : Statement (.ldMemVx x) := by
  have := x.isLt
  apply of_bounds <;>
    simp [Instr.opRow, Instr.operandBits, OpRow.pattern, OpRow.byByte] <;> omega

theorem ldVxMem (x : Reg) : Statement (.ldVxMem x) := by
  have := x.isLt
  apply of_bounds <;>
    simp [Instr.opRow, Instr.operandBits, OpRow.pattern, OpRow.byByte] <;> omega

/-- Every instruction. -/
theorem all (i : Instr) : Statement i := by
  cases i
  case cls => apply cls
  case ret => apply ret
  case jpAddr => apply jpAddr
  case callAddr => apply callAddr
  case seByte => apply seByte
  case sneByte => apply sneByte
  case seReg => apply seReg
  case ldByte => apply ldByte
  case addByte => apply addByte
  case ldReg => apply ldReg
  case orReg => apply orReg
  case andReg => apply andReg
  case xorReg => apply xorReg
  case addReg => apply addReg
  case subReg => apply subReg
  case shrReg => apply shrReg
  case subnReg => apply subnReg
  case shlReg => apply shlReg
  case sneReg => apply sneReg
  case ldI => apply ldI
  case jpV0 => apply jpV0
  case rnd => apply rnd
  case drw => apply drw
  case skp => apply skp
  case sknp => apply sknp
  case ldVxDT => apply ldVxDT
  case ldVxK => apply ldVxK
  case ldDTVx => apply ldDTVx
  case ldSTVx => apply ldSTVx
  case addIVx => apply addIVx
  case ldFVx => apply ldFVx
  case ldBVx => apply ldBVx
  case ldMemVx => apply ldMemVx
  case ldVxMem => apply ldVxMem

end Sys2Proof.Laws.FixedBits
end

