-- ==== Sys2Proof/Tests/Slice0.lean ====
section
/-! SUPPORT. The model's own tests: ill-formed terms refused, a word of every instruction decoded, single steps with the
results of spec/95_test_vectors.md, and a state that meets the hypotheses of each statement. -/

namespace Sys2Proof.Tests

open Sys2Proof Sys2Proof.Machine

/-! ### Helpers -/

/-- The result is a next state with the property. -/
def after (r : Result) (p : State → Bool) : Bool :=
  match r with
  | .next t => p t
  | .fault _ => false
  | .refused _ => false

/-- Startup with the word at 0x200 (the convention of spec/95_test_vectors.md). -/
def at200 (w : Nat) : State := State.reset.withFetchWord 16 w

/-- A state with these registers. -/
def regs (s : State) (l : List (Reg × Byte)) : State := l.foldl (fun s p => s.setReg p.1 p.2) s

/-- A state whose call stack is full. -/
def fullStack (s : State) : State := { s with sp := 16, stack := Vector.replicate 16 0x202 }

/-- A state with these keys presented at the next step. -/
def keys (s : State) (k : BitVec 16) : State := { s with keysIn := k }

/-- A BoundsError of the word at 0x200. -/
def bounds (k : BoundsKind) (w : Word) (info : Nat) : Mode := .halted (.error (.boundsError k 0x200 (some w) info))

/-! ### Well-formedness -/

theorem test_cls_refused_by_default : (Instr.cls 0).wellFormed Config.standard = false := by decide
theorem test_cls_refused_by_the_decoder : decode Config.standard 0x00E0 = .error (.illegal 0x00E0) := by decide
theorem test_cls_admitted : (Instr.cls 0).wellFormed Config.allRows = true := by decide

/-! ### Decoding: words written out from the patterns of R79, one of every instruction -/

theorem test_decode_family0 :
    decode Config.allRows 0x00E0 = .ok (.cls 0) ∧ decode Config.allRows 0x0BE0 = .ok (.cls 0xB) ∧
    decode Config.standard 0x00EE = .ok (.ret 0) ∧ decode Config.standard 0x01EE = .ok (.ret 1) := by decide
theorem test_decode_addresses :
    decode Config.standard 0x1234 = .ok (.jpAddr 0x234) ∧ decode Config.standard 0x2ABC = .ok (.callAddr 0xABC) ∧
    decode Config.standard 0xA123 = .ok (.ldI 0x123) ∧ decode Config.standard 0xBFED = .ok (.jpV0 0xFED) := by decide
theorem test_decode_bytes :
    decode Config.standard 0x3A12 = .ok (.seByte 0xA 0x12) ∧ decode Config.standard 0x4B13 = .ok (.sneByte 0xB 0x13) ∧
    decode Config.standard 0x6C9D = .ok (.ldByte 0xC 0x9D) ∧ decode Config.standard 0x70FF = .ok (.addByte 0 0xFF) ∧
    decode Config.standard 0xC30F = .ok (.rnd 3 0x0F) := by decide
theorem test_decode_registers :
    decode Config.standard 0x5127 = .ok (.seReg 1 2 7) ∧ decode Config.standard 0x9AB0 = .ok (.sneReg 0xA 0xB 0) ∧
    decode Config.standard 0xD12F = .ok (.drw 1 2 0xF) := by decide
theorem test_decode_family8 :
    decode Config.standard 0x8AB0 = .ok (.ldReg 0xA 0xB) ∧ decode Config.standard 0x8AB1 = .ok (.orReg 0xA 0xB) ∧
    decode Config.standard 0x8AB2 = .ok (.andReg 0xA 0xB) ∧ decode Config.standard 0x8AB3 = .ok (.xorReg 0xA 0xB) ∧
    decode Config.standard 0x8AB4 = .ok (.addReg 0xA 0xB) ∧ decode Config.standard 0x8AB5 = .ok (.subReg 0xA 0xB) ∧
    decode Config.standard 0x8AB6 = .ok (.shrReg 0xA 0xB) ∧ decode Config.standard 0x8AB7 = .ok (.subnReg 0xA 0xB) ∧
    decode Config.standard 0x8ABE = .ok (.shlReg 0xA 0xB) := by decide
theorem test_decode_familyE :
    decode Config.standard 0xE29E = .ok (.skp 2) ∧ decode Config.standard 0xE3A1 = .ok (.sknp 3) := by decide
theorem test_decode_familyF :
    decode Config.standard 0xF307 = .ok (.ldVxDT 3) ∧ decode Config.standard 0xF40A = .ok (.ldVxK 4) ∧
    decode Config.standard 0xF515 = .ok (.ldDTVx 5) ∧ decode Config.standard 0xF618 = .ok (.ldSTVx 6) ∧
    decode Config.standard 0xF71E = .ok (.addIVx 7) ∧ decode Config.standard 0xF829 = .ok (.ldFVx 8) ∧
    decode Config.standard 0xF933 = .ok (.ldBVx 9) ∧ decode Config.standard 0xFA55 = .ok (.ldMemVx 0xA) ∧
    decode Config.standard 0xFB65 = .ok (.ldVxMem 0xB) := by decide
/-- E1, E3 to E8. -/
theorem test_decode_illegal :
    decode Config.standard 0x0000 = .error (.illegal 0x0000) ∧ decode Config.standard 0x0123 = .error (.illegal 0x0123) ∧
    decode Config.standard 0x8008 = .error (.illegal 0x8008) ∧ decode Config.standard 0x800F = .error (.illegal 0x800F) ∧
    decode Config.standard 0xE000 = .error (.illegal 0xE000) ∧ decode Config.standard 0xF000 = .error (.illegal 0xF000) ∧
    decode Config.standard 0xF0FF = .error (.illegal 0xF0FF) := by decide
/-- R53, R70: the first byte is the most significant one, and fewer than two bytes are no instruction. -/
theorem test_decode_bytes_order :
    decodeBytes Config.standard [0x6A, 0x42, 0x99] = .ok (.ldByte 0xA 0x42, [0x99]) ∧
    decodeBytes Config.standard [0x6A] = .error .truncated ∧ decodeTableWord 16 0xD12F = some (.drw 1 2 0xF) := by decide
theorem test_encode_words :
    encode (.cls 0) = 0x00E0 ∧ encode (.seReg 1 2 7) = 0x5127 ∧ encode (.shlReg 0xA 0xB) = 0x8ABE ∧
    encode (.drw 1 2 0xF) = 0xD12F ∧ encode (.ldVxMem 0xB) = 0xFB65 ∧ encode (.callAddr 0xABC) = 0x2ABC := by decide
/-- R85: no two rows of the opcode map share a word. -/
theorem test_rows_disjoint : opcodeTable.Pairwise (fun a b => a.disjoint b = true) := by decide

/-! ### The engine (vectors E9, Q1 to Q7, P7) -/

theorem test_quit_at_phase0 :
    after (step { at200 0x6A42 with quitIn := true, dt := 3 })
      (fun t => t.mode == .halted .quit && t.pc == 0x200 && t.reg 0xA == 0 && t.dt == 3) = true := by decide
theorem test_fetch_at_FFF :
    after (step { State.reset with pc := 0xFFF })
      (fun t => t.mode == .halted (.error (.boundsError .fetch 0xFFF none 0x1000)) && t.pc == 0xFFF) = true := by decide
theorem test_fetch_at_1000 :
    after (step { State.reset with pc := 0x1000 })
      (fun t => t.mode == .halted (.error (.boundsError .fetch 0x1000 none 0x1000))) = true := by decide
theorem test_fetch_at_FFE :
    after (step ({ State.reset with pc := 0xFFE }.withFetchWord 16 0x6001))
      (fun t => t.reg 0 == 1 && t.pc == 0x1000 && t.mode == .running) = true := by decide
theorem test_fetch_at_odd_pc :
    after (step ({ State.reset with pc := 0x201 }.withFetchWord 16 0x6A42))
      (fun t => t.reg 0xA == 0x42 && t.pc == 0x203) = true := by decide
theorem test_illegal_word :
    after (step (at200 0x800F))
      (fun t => t.mode == .halted (.error (.decodeError 0x200 0x800F)) && t.pc == 0x200) = true := by decide
theorem test_empty_memory_is_illegal :
    after (step State.reset) (fun t => t.mode == .halted (.error (.decodeError 0x200 0x0000))) = true := by decide
/-- Q7. -/
theorem test_timers_tick :
    after (step { at200 0x6000 with dt := 2, st := 2 })
      (fun t => t.dt == 1 && t.st == 1 && !t.soundReq && !t.presentReq) = true := by decide
theorem test_halted_has_no_step :
    (match step { State.reset with mode := .halted .quit } with
      | .fault .quit => true | .fault (.error _) => false | .next _ => false | .refused _ => false) = true := by decide
theorem test_load_too_long :
    loadProgram (List.replicate 3585 0) State.reset = .refused (.loadError 3585) := by
  rw [loadProgram, List.length_replicate, if_neg (by decide)]
theorem test_load :
    after (loadProgram [0x60, 0x01] State.reset)
      (fun t => t.readByte 0x200 == 0x60 && t.readByte 0x201 == 0x01 && t.readByte 0x202 == 0) = true := by decide

/-! ### Arithmetic, logic, data move (X1 to X3, X6, A1 to A33) -/

theorem test_ldByte : after (step (at200 0x6FAB)) (fun t => t.reg 0xF == 0xAB && t.pc == 0x202) = true := by decide
theorem test_addByte_wraps :
    after (step (regs (at200 0x7001) [(0, 0xFF), (0xF, 0x55)])) (fun t => t.reg 0 == 0 && t.reg 0xF == 0x55) = true := by
  decide
theorem test_addByte_vf :
    after (step (regs (at200 0x7F01) [(0xF, 0xFF)])) (fun t => t.reg 0xF == 0) = true := by decide
theorem test_ldReg :
    after (step (regs (at200 0x8340) [(4, 0x11)])) (fun t => t.reg 3 == 0x11 && t.reg 4 == 0x11) = true := by decide
theorem test_orReg :
    after (step (regs (at200 0x8011) [(0, 0xF0), (1, 0x0F), (0xF, 1)]))
      (fun t => t.reg 0 == 0xFF && t.reg 0xF == 1) = true := by decide
theorem test_andReg :
    after (step (regs (at200 0x8012) [(0, 0xF0), (1, 0x3F), (0xF, 1)]))
      (fun t => t.reg 0 == 0x30 && t.reg 0xF == 1) = true := by decide
theorem test_xorReg :
    after (step (regs (at200 0x8013) [(0, 0xF0), (1, 0x3F), (0xF, 1)]))
      (fun t => t.reg 0 == 0xCF && t.reg 0xF == 1) = true := by decide
theorem test_addReg_carry :
    after (step (regs (at200 0x8014) [(0, 0xC8), (1, 0x64)])) (fun t => t.reg 0 == 0x2C && t.reg 0xF == 1) = true := by
  decide
theorem test_addReg_flag_wins :
    after (step (regs (at200 0x8F14) [(0xF, 0x90), (1, 0x90)])) (fun t => t.reg 0xF == 1) = true := by decide
theorem test_subReg_borrow :
    after (step (regs (at200 0x8015) [(0, 0x05), (1, 0x07)])) (fun t => t.reg 0 == 0xFE && t.reg 0xF == 0) = true := by
  decide
theorem test_subReg_equal :
    after (step (regs (at200 0x8005) [(0, 0x37)])) (fun t => t.reg 0 == 0 && t.reg 0xF == 1) = true := by decide
theorem test_subnReg :
    after (step (regs (at200 0x8017) [(0, 0x02), (1, 0x01)])) (fun t => t.reg 0 == 0xFF && t.reg 0xF == 0) = true := by
  decide
theorem test_shrReg :
    after (step (regs (at200 0x8016) [(0, 0x05), (1, 0x80)])) (fun t => t.reg 0 == 0x02 && t.reg 0xF == 1) = true := by
  decide
/-- A15. -/
theorem test_shrReg_of_vy :
    after (step (regs { at200 0x8016 with cfg := { Config.standard with shiftUsesVy := true } } [(1, 0x81)]))
      (fun t => t.reg 0 == 0x40 && t.reg 0xF == 1 && t.reg 1 == 0x81) = true := by decide
theorem test_shlReg :
    after (step (regs (at200 0x801E) [(0, 0x81), (1, 0x01)])) (fun t => t.reg 0 == 0x02 && t.reg 0xF == 1) = true := by
  decide
theorem test_rnd :
    after (step { at200 0xC30F with rndIn := 0xA7 }) (fun t => t.reg 3 == 0x07) = true := by decide
theorem test_ldI : after (step (at200 0xAFFF)) (fun t => t.i == 0xFFF) = true := by decide
theorem test_addIVx_wraps :
    after (step (regs { at200 0xF01E with i := 0xFFFF } [(0, 1)])) (fun t => t.i == 0 && t.reg 0xF == 0) = true := by decide
/-- X6. -/
theorem test_ldBVx :
    after (step (regs { at200 0xF533 with i := 0x300 } [(5, 157)]))
      (fun t => t.readByte 0x300 == 1 && t.readByte 0x301 == 5 && t.readByte 0x302 == 7 && t.i == 0x300) = true := by decide
/-- A22. -/
theorem test_ldBVx_out_of_range :
    after (step (regs { at200 0xF033 with i := 0xFFE } [(0, 123)]))
      (fun t => t.mode == bounds .mem 0xF033 0x1000 && t.readByte 0xFFE == 0 && t.pc == 0x200) = true := by decide
/-- A25. -/
theorem test_ldMemVx_increments :
    after (step (regs { at200 0xF255 with
        i := 0x400, cfg := { Config.standard with loadStoreIncrementsI := true } } [(0, 1), (1, 2), (2, 3)]))
      (fun t => t.readByte 0x400 == 1 && t.readByte 0x402 == 3 && t.readByte 0x403 == 0 && t.i == 0x403) = true := by decide
/-- A24. -/
theorem test_ldMemVx_out_of_range :
    after (step { at200 0xFF55 with i := 0xFF1 }) (fun t => t.mode == bounds .mem 0xFF55 0x1000) = true := by decide
/-- A26, with the font byte at 0 in place of a stored one. -/
theorem test_ldVxMem :
    after (step (regs (at200 0xF065) [(1, 0x77)])) (fun t => t.reg 0 == 0xF0 && t.reg 1 == 0x77 && t.i == 0) = true := by
  decide
/-- A27. -/
theorem test_ldVxMem_out_of_range :
    after (step { at200 0xF065 with i := 0x2000 }) (fun t => t.mode == bounds .mem 0xF065 0x2000) = true := by decide

/-! ### Control flow (B1 to B18, E9 to E11) -/

theorem test_jpAddr : after (step (at200 0x1FFF)) (fun t => t.pc == 0xFFF) = true := by decide
theorem test_jpV0 : after (step (regs (at200 0xBFFF) [(0, 0xFF)])) (fun t => t.pc == 0x10FE) = true := by decide
theorem test_callAddr :
    after (step { at200 0x2300 with sp := 15 })
      (fun t => t.stack[15] == 0x202 && t.sp == 16 && t.pc == 0x300) = true := by decide
theorem test_callAddr_overflow :
    after (step (fullStack (at200 0x2300)))
      (fun t => t.mode == bounds .stackOverflow 0x2300 16 && t.pc == 0x200 && t.sp == 16) = true := by decide
theorem test_ret :
    after (step { at200 0x00EE with sp := 2, stack := (Vector.replicate 16 0).set 1 0x444 })
      (fun t => t.pc == 0x444 && t.sp == 1 && t.stack[1] == 0x444) = true := by decide
theorem test_ret_underflow :
    after (step (at200 0x00EE)) (fun t => t.mode == bounds .stackUnderflow 0x00EE 0 && t.pc == 0x200) = true := by decide
theorem test_seByte :
    after (step (regs (at200 0x3012) [(0, 0x12)])) (fun t => t.pc == 0x204) = true ∧
    after (step (regs (at200 0x3013) [(0, 0x12)])) (fun t => t.pc == 0x202) = true := by decide
theorem test_sneByte :
    after (step (regs (at200 0x4013) [(0, 0x12)])) (fun t => t.pc == 0x204) = true ∧
    after (step (regs (at200 0x4012) [(0, 0x12)])) (fun t => t.pc == 0x202) = true := by decide
theorem test_seReg :
    after (step (regs (at200 0x5121) [(1, 7), (2, 7)])) (fun t => t.pc == 0x204) = true ∧
    after (step (regs (at200 0x5120) [(1, 7)])) (fun t => t.pc == 0x202) = true := by decide
theorem test_sneReg :
    after (step (regs (at200 0x9AB7) [(0xA, 1), (0xB, 2)])) (fun t => t.pc == 0x204) = true ∧
    after (step (regs (at200 0x9440) [(4, 0x99)])) (fun t => t.pc == 0x202) = true := by decide
theorem test_skp :
    after (step (keys (regs (at200 0xE09E) [(0, 0x0A)]) 0x0400)) (fun t => t.pc == 0x204) = true ∧
    after (step (keys (regs (at200 0xE09E) [(0, 0x0A)]) 0xFBFF)) (fun t => t.pc == 0x202) = true := by decide
theorem test_skp_error :
    after (step (keys (regs (at200 0xE09E) [(0, 0x10)]) 0xFFFF)) (fun t => t.mode == bounds .keyIndex 0xE09E 0x10) = true := by
  decide
theorem test_sknp :
    after (step (keys (regs (at200 0xE0A1) [(0, 0x0F)]) 0x0000)) (fun t => t.pc == 0x204) = true ∧
    after (step (keys (regs (at200 0xE0A1) [(0, 0x0F)]) 0x8000)) (fun t => t.pc == 0x202) = true := by decide
theorem test_sknp_error :
    after (step (regs (at200 0xE0A1) [(0, 0xFF)])) (fun t => t.mode == bounds .keyIndex 0xE0A1 0xFF) = true := by decide

/-! ### Display (G1 to G15) -/

/-- G1, with row 2 of the glyph "0" (0x90) as the sprite: columns 63 and 66 mod 64. -/
theorem test_drw_wraps_columns :
    after (step (regs { at200 0xD011 with i := 2 } [(0, 63)]))
      (fun t => t.pixel 0 63 && t.pixel 0 2 && !t.pixel 0 0 && t.reg 0xF == 0 && t.presentReq) = true := by decide
/-- G3: a set pixel under a set bit collides and is unset. -/
theorem test_drw_collides :
    after (step { at200 0xD011 with i := 2, disp := Display.toggle Display.blank 0 3 })
      (fun t => t.pixel 0 0 && !t.pixel 0 3 && t.reg 0xF == 1 && !t.dirty) = true := by decide
theorem test_cls :
    after (step { at200 0x00E0 with disp := Display.toggle Display.blank 31 63 })
      (fun t => !t.pixel 31 63 && t.presentReq && t.pc == 0x202) = true := by decide
/-- G12. -/
theorem test_ldFVx : after (step (regs (at200 0xF029) [(0, 0xFF)])) (fun t => t.i == 0x04FB) = true := by decide

/-! ### Timers and key wait (T5, T6, T8 to T11, X7) -/

theorem test_ldVxDT : after (step { at200 0xF307 with dt := 0x10 }) (fun t => t.reg 3 == 0x10 && t.dt == 0x0F) = true := by
  decide
theorem test_ldDTVx : after (step (regs (at200 0xF015) [(0, 3)])) (fun t => t.dt == 2) = true := by decide
theorem test_ldSTVx :
    after (step (regs (at200 0xF018) [(0, 1)])) (fun t => t.st == 0 && t.soundReq) = true ∧
    after (step (regs { at200 0xF018 with st := 5 } [(0, 0)])) (fun t => t.st == 0 && !t.soundReq) = true := by decide
theorem test_ldVxK_lowest :
    after (step (keys (at200 0xF50A) 0x0408)) (fun t => t.reg 5 == 3 && t.pc == 0x202 && t.mode == .running) = true := by
  decide
theorem test_ldVxK_waits :
    after (step { at200 0xF50A with dt := 5, st := 1 })
      (fun t => t.mode == .awaitingKey 5 && t.pc == 0x200 && t.dt == 5 && !t.soundReq) = true := by decide
theorem test_wait_ends_with_a_key :
    after (step { at200 0xF30A with mode := .awaitingKey 3, keysIn := 0x0400, dt := 5, st := 3 })
      (fun t => t.mode == .running && t.pc == 0x202 && t.reg 3 == 10 && t.dt == 4 && t.st == 2) = true := by decide
theorem test_wait_goes_on :
    after (step { at200 0xF30A with mode := .awaitingKey 3, key := 1, dt := 5 })
      (fun t => t.mode == .awaitingKey 3 && t.pc == 0x200 && t.dt == 5 && t.key == 0) = true := by decide
theorem test_wait_ends_by_quit :
    after (step { at200 0xF30A with mode := .awaitingKey 3, quitIn := true, keysIn := 1 })
      (fun t => t.mode == .halted .quit && t.pc == 0x200 && t.key == 0) = true := by decide

/-! ### Memory -/

/-- Writing what an address reads as anyway lists nothing; the font byte at 0 is 0xF0 (R65). -/
theorem test_write_canonical :
    ((State.reset.writeByte 0x300 7).writeByte 0x300 0).mem = [] ∧ (State.reset.writeByte 0 0xF0).mem = [] ∧
    ((State.reset.writeByte 0x301 7).writeByte 0 0).mem = [(0, 0), (0x301, 7)] := by decide

/-! ### Witnesses: for each statement with hypotheses, a state and operands that meet them, each clause at a boundary -/

theorem witness_DecodeOfEncode :
    (Instr.cls 0xF).wellFormed Config.allRows = true ∧ (Instr.drw 0xF 0xF 0xF).wellFormed Config.standard = true := by decide

theorem witness_EncodeOfDecode : decode Config.standard 0xFFFF = .error (.illegal 0xFFFF) ∧
    decode Config.standard 0xFF65 = .ok (.ldVxMem 0xF) := by decide

theorem witness_IllegalWordsAreTheListedOnes :
    IllegalWord Config.standard 0x0FE0 ∧ IllegalWord Config.allRows 0x0FE1 ∧ IllegalWord Config.standard 0x8FFF ∧
    IllegalWord Config.standard 0xEFA2 ∧ IllegalWord Config.standard 0xFFFF ∧
    ¬ IllegalWord Config.allRows 0x0FE0 ∧ ¬ IllegalWord Config.standard 0x0FEE := by
  refine ⟨?_, ?_, ?_, ?_, ?_, ?_, ?_⟩ <;> (unfold IllegalWord; decide)

theorem witness_DecodedWordBelongsToOneRow : decode Config.standard 0x8FFE = .ok (.shlReg 0xF 0xF) := by decide

theorem witness_StepRunsTheDecodedInstruction :
    let s := { at200 0x6001 with pc := 0xFFE }.withFetchWord 16 0xFFFF
    let u := s.withFetchWord 16 0x6001
    u.mode = .running ∧ u.quitIn = false ∧ u.pc.toNat + 2 ≤ 4096 ∧
    decode u.cfg (wordOfBytes (u.readByte u.pc.toNat) (u.readByte (u.pc.toNat + 1))) = .ok (.ldByte 0 1) ∧
    ∃ t, exec (.ldByte 0 1) (phase2State u) = .next t :=
  ⟨rfl, rfl, by decide, by decide, _, rfl⟩

theorem witness_FetchRaisesPastTheEnd :
    ({ State.reset with pc := 0xFFF }.mode = .running ∧ 0xFFF ≤ { State.reset with pc := 0xFFF }.pc.toNat) ∧
    0xFFF ≤ { State.reset with pc := 0x1000 }.pc.toNat ∧
    { State.reset with pc := 0xFFE }.pc.toNat ≤ 0xFFE ∧ ∃ t, step { State.reset with pc := 0xFFE } = .next t :=
  ⟨by decide, by decide, by decide, _, rfl⟩

theorem witness_IllegalWordHalts :
    State.reset.mode = .running ∧ State.reset.quitIn = false ∧ State.reset.pc.toNat + 2 ≤ 4096 ∧
    IllegalWord State.reset.cfg State.reset.fetchWord := by
  unfold IllegalWord; decide

theorem witness_QuitHaltsBeforeAnythingElse :
    ({ State.reset with quitIn := true }.quitIn = true ∧ { State.reset with quitIn := true }.mode = .running) ∧
    ({ State.reset with quitIn := true, mode := .awaitingKey 3 }.quitIn = true ∧
      ∃ x, { State.reset with quitIn := true, mode := .awaitingKey 3 }.mode = .awaitingKey x) :=
  ⟨by decide, rfl, 3, rfl⟩

theorem witness_HaltedHasNoStep :
    (State.reset.halt .quit).mode = .halted .quit ∧
    (State.reset.halt (.error (.decodeError 0x200 0))).mode = .halted (.error (.decodeError 0x200 0)) := by decide

theorem witness_KeyLatchChangesOnlyByRefresh :
    (∃ t, step (at200 0x6001) = .next t ∧ (at200 0x6001).quitIn = false) ∧
    (∃ t, step { at200 0x6001 with quitIn := true } = .next t) ∧ ∃ t, exec (.skp 0) State.reset = .next t :=
  ⟨⟨_, rfl, rfl⟩, ⟨_, rfl⟩, _, rfl⟩

/-- A cycle that completes, one that waits, one that faults; a wait that ends, one that goes on. -/
theorem witness_TimersTickOncePerCompletedCycle :
    (∃ t u, step { at200 0x6001 with dt := 1, st := 1 } = .next t ∧
      execute (phase2State { at200 0x6001 with dt := 1, st := 1 }) = .next u ∧ u.mode = .running) ∧
    (∃ t u, step (at200 0xF00A) = .next t ∧ execute (phase2State (at200 0xF00A)) = .next u ∧ u.mode ≠ .running) ∧
    (∃ t u, step (at200 0x0000) = .next t ∧ execute (phase2State (at200 0x0000)) = .next u ∧ u.mode ≠ .running) ∧
    (∃ t, step { at200 0xF00A with mode := .awaitingKey 0, keysIn := 1 } = .next t ∧ t.mode = .running) ∧
    (∃ t, step { at200 0xF00A with mode := .awaitingKey 0 } = .next t ∧ t.mode ≠ .running) :=
  ⟨⟨_, _, rfl, rfl, rfl⟩, ⟨_, _, rfl, rfl, by decide⟩, ⟨_, _, rfl, rfl, by decide⟩, ⟨_, rfl, rfl⟩, ⟨_, rfl, by decide⟩⟩

/-- A step that draws, one that clears, one that does neither. -/
theorem witness_PresentRequestFollowsDrawing :
    (∃ t, step (at200 0xD001) = .next t ∧ (at200 0xD001).dirty = false ∧ t.presentReq = true) ∧
    (∃ t, step (at200 0x00E0) = .next t ∧ t.presentReq = true) ∧
    (∃ t, step (at200 0x6001) = .next t ∧ t.presentReq = false) :=
  ⟨⟨_, rfl, rfl, by decide⟩, ⟨_, rfl, by decide⟩, ⟨_, rfl, by decide⟩⟩

theorem witness_reset_meets_invariant : State.reset.Inv :=
  ⟨by decide, by decide, by decide, rfl, fun _ h => nomatch h⟩

/-- A state in a key wait that meets the invariant: the Fx0A at PC, no key down. -/
theorem witness_awaiting_meets_invariant : { at200 0xF30A with mode := .awaitingKey 3 }.Inv :=
  ⟨by decide, by decide, by decide, rfl, by
    intro x h
    obtain rfl : 3 = x := by simpa using h
    decide⟩

theorem witness_StepKeepsInvariant :
    (∃ t, step State.reset = .next t) ∧ (∃ t, step { at200 0xF30A with mode := .awaitingKey 3 } = .next t) :=
  ⟨⟨_, rfl⟩, _, rfl⟩

theorem witness_StartupMeetsInvariant :
    (∃ t, loadProgram [] (State.startup Config.allRows) = .next t) ∧
    (∃ t, loadProgram [0x12, 0x00] (State.startup Config.standard) = .next t) := ⟨⟨_, rfl⟩, _, rfl⟩

theorem witness_ConfigurationFixedAndQuitSticky :
    ∃ t, step { State.reset with quitIn := true } = .next t ∧ { State.reset with quitIn := true }.quitIn = true :=
  ⟨_, rfl, rfl⟩

/-- Every cause of R261 that a handler raises, at the boundary of its condition. -/
theorem witness_RaisingInstructionChangesOnlyTheMode :
    (∃ t r, exec (.callAddr 0x300) (fullStack State.reset) = .next t ∧ t.mode = .halted r) ∧
    (∃ t r, exec (.ret 0) State.reset = .next t ∧ t.mode = .halted r) ∧
    (∃ t r, exec (.skp 0) (regs State.reset [(0, 16)]) = .next t ∧ t.mode = .halted r) ∧
    (∃ t r, exec (.drw 0 0 1) { State.reset with i := 0x1000 } = .next t ∧ t.mode = .halted r) :=
  ⟨⟨_, _, rfl, rfl⟩, ⟨_, _, rfl, rfl⟩, ⟨_, _, rfl, rfl⟩, _, _, rfl, rfl⟩

theorem witness_EngineStepsUnlessHalted :
    (∃ t, step State.reset = .next t) ∧ (∀ r, State.reset.mode ≠ .halted r) ∧
    (State.reset.halt .quit).mode = .halted .quit ∧
    (State.reset.halt (.error (.decodeError 0x200 0))).mode = .halted (.error (.decodeError 0x200 0)) :=
  ⟨⟨_, rfl⟩, (fun _ h => nomatch h), rfl, rfl⟩

theorem witness_InstructionsRaiseByTheCauseTable :
    errorOf (.callAddr 0) (fullStack State.reset) = some (.stackOverflow, 16) ∧
    errorOf (.ret 0) State.reset = some (.stackUnderflow, 0) ∧
    errorOf (.sknp 0) (regs State.reset [(0, 16)]) = some (.keyIndex, 16) ∧
    errorOf (.drw 0 0 1) { State.reset with i := 0x1000 } = some (.mem, 0x1000) ∧
    errorOf (.drw 0 0 0) { State.reset with i := 0xFFFF } = none ∧
    errorOf (.ldBVx 0) { State.reset with i := 0xFFE } = some (.mem, 0x1000) ∧
    errorOf (.ldBVx 0) { State.reset with i := 0xFFD } = none ∧
    errorOf (.ldMemVx 0xF) { State.reset with i := 0xFF1 } = some (.mem, 0x1000) ∧
    errorOf (.ldVxMem 0xF) { State.reset with i := 0xFF0 } = none ∧
    ∃ t, exec (.ret 0) State.reset = .next t :=
  ⟨by decide, by decide, by decide, by decide, by decide, by decide, by decide, by decide, by decide, _, rfl⟩

theorem witness_RegisterRangeErrorIsNeverRaised : ∃ t, step (at200 0xFF55) = .next t := ⟨_, rfl⟩

/-- E1 at PC, and B14: SE at the last PC the bound admits, taken, with FF FF behind it. -/
theorem witness_DataIsDecodedOnlyWhereControlReachesIt :
    (∃ t, step (at200 0x0000) = .next t ∧ t.mode = .halted (.error (.decodeError 0x200 0x0000))) ∧
    (let s := { State.reset with pc := 0xFFC }.withFetchWord 16 0x3000
     s.mode = .running ∧ s.quitIn = false ∧ s.pc.toNat + 4 ≤ 4096 ∧ decode s.cfg s.fetchWord = .ok (.seByte 0 0) ∧
     isSkip (.seByte 0 0) = true ∧ errorOf (.seByte 0 0) (phase2State s) = none ∧
     after (step (s.writeBytes 0xFFE [0xFF, 0xFF])) (fun t => t.mode == .running && t.pc == 0x1000) = true) ∧
    decode Config.standard 0x3000 = .ok (.seByte 0 0) ∧ (0x202 : Nat) ≠ State.reset.pc.toNat + 1 :=
  ⟨⟨_, rfl, by decide⟩, by decide, by decide, by decide⟩

/-- The bound on PC is met at its end, by an instruction that completes and by one that faults. -/
theorem witness_PcAdvancesByTheTable :
    (∃ t, exec (.seByte 0 0) { State.reset with pc := 0xFFE } = .next t ∧ t.mode = .running ∧ t.pc = 0x1002) ∧
    (∃ t, exec (.ret 0) { State.reset with pc := 0xFFE } = .next t ∧ t.mode ≠ .running) ∧
    { State.reset with pc := 0xFFE }.pc.toNat ≤ 0xFFE :=
  ⟨⟨_, rfl, rfl, rfl⟩, ⟨_, rfl, by decide⟩, by decide⟩

theorem witness_AddWithCarryResult : (0 : Reg) ≠ Reg.vF := by decide

theorem witness_SubtractWithBorrowResult : (14 : Reg) ≠ Reg.vF := by decide

theorem witness_ReverseSubtractResult : (1 : Reg) ≠ Reg.vF := by decide

/-- Both values of `SHIFT_USES_VY`. -/
theorem witness_ShiftResults :
    (5 = if State.reset.cfg.shiftUsesVy then ((regs State.reset [(1, 5)]).reg 0).toNat
      else ((regs State.reset [(1, 5)]).reg 1).toNat) ∧
    { Config.standard with shiftUsesVy := true }.shiftUsesVy = true := by decide

theorem witness_RandomByteIsMasked : (0 : Byte) = 0 ∧ (0xFF : Byte) = 0xFF := ⟨rfl, rfl⟩

theorem witness_BcdStoreResult :
    { State.reset with i := 0xFFD }.i.toNat + 3 ≤ 4096 ∧ 4096 < { State.reset with i := 0xFFE }.i.toNat + 3 := by decide

theorem witness_BlockStoreResult :
    { State.reset with i := 0xFF0 }.i.toNat + ((15 : Reg).val + 1) ≤ 4096 ∧
    4096 < { State.reset with i := 0xFF1 }.i.toNat + ((15 : Reg).val + 1) := by decide

theorem witness_BlockLoadResult :
    { State.reset with i := 0xFFF }.i.toNat + ((0 : Reg).val + 1) ≤ 4096 ∧
    4096 < { State.reset with i := 0x1000 }.i.toNat + ((0 : Reg).val + 1) := by decide

/-- The state after the store, with V0 overwritten, is a state `u`. -/
theorem witness_BlockStoreThenLoadRestores :
    let s := regs { State.reset with i := 0xFFE } [(0, 7), (1, 9)]
    s.i.toNat + ((1 : Reg).val + 1) ≤ 4096 ∧
    ∃ t u v, exec (.ldMemVx 1) s = .next t ∧ u = t.setReg 0 3 ∧ u.i = s.i ∧ SameMemory t u ∧
      exec (.ldVxMem 1) u = .next v :=
  ⟨by decide, _, _, _, rfl, rfl, rfl, fun _ => rfl, rfl⟩

theorem witness_FetchSeesTheLastStore :
    let s := regs { State.reset with i := 0xFFE } [(0, 0x12), (1, 0x0A)]
    s.i.toNat + ((1 : Reg).val + 1) ≤ 4096 ∧
    ∃ t u, exec (.ldMemVx 1) s = .next t ∧ u = t.setPc 0xFFE ∧ SameMemory t u ∧ u.pc = s.i :=
  ⟨by decide, _, _, rfl, rfl, fun _ => rfl, rfl⟩

theorem witness_CanonicalMemoriesAreEqualByReading :
    Memory.wf Config.standard [(0, 0), (0xFFF, 1)] ∧ ¬ Memory.wf Config.standard [(0, 0xF0)] ∧
    ¬ Memory.wf Config.standard [(0x1000, 1)] := by decide

theorem witness_CallPushesTheReturnAddress :
    { State.reset with sp := 15 }.sp.val < 16 ∧ (fullStack State.reset).sp.val = 16 := by decide

theorem witness_ReturnPopsPc : 0 < { State.reset with sp := 1 }.sp.val ∧ State.reset.sp.val = 0 := by decide

/-- CALL 0x300 at 0x200, RET at 0x300, and a host that says nothing for one step (X5). -/
theorem witness_CallThenReturnRestoresPc :
    let s := { (at200 0x2300).writeBytes 0x300 [0x00, 0xEE] with hostQueue := [HostInput.idle] }
    s.mode = .running ∧ s.quitIn = false ∧ s.hostQueue = HostInput.idle :: [] ∧ HostInput.idle.quit = false ∧
    s.pc.toNat + 2 ≤ 4096 ∧ (0x300 : Addr12).toNat + 2 ≤ 4096 ∧ s.sp.val < 16 ∧
    decode s.cfg s.fetchWord = .ok (.callAddr 0x300) ∧
    decode s.cfg (wordOfBytes (s.readByte (0x300 : Addr12).toNat) (s.readByte ((0x300 : Addr12).toNat + 1))) =
      .ok (.ret 0) := by decide

theorem witness_KeySkipsResult :
    ((regs State.reset [(0, 15)]).reg 0).toNat ≤ 15 ∧ 15 < ((regs State.reset [(0, 16)]).reg 0).toNat := by decide

/-- No row at all; one row at the last byte; one row past it. -/
theorem witness_DrawFrame :
    DrawInRange { State.reset with i := 0xFFFF } 0 ∧ DrawInRange { State.reset with i := 0xFFF } 1 ∧
    ¬ DrawInRange { State.reset with i := 0x1000 } 1 := by
  unfold DrawInRange; decide

/-- The glyph "0" covers the pixel (0, 0) and not (1, 1). -/
theorem witness_DrawTogglesCoveredPixelsOnTheTorus :
    SpriteCovers State.reset 0 0 5 0 0 ∧ DrawInRange State.reset 5 :=
  ⟨⟨0, 0, by decide, by decide, by decide, by decide, by decide⟩, by unfold DrawInRange; decide⟩

/-- A draw that collides, and one that does not. -/
theorem witness_DrawReportsCollision :
    (∃ t, exec (.drw 0 0 1) { State.reset with disp := Display.toggle Display.blank 0 0 } = .next t ∧
      { State.reset with disp := Display.toggle Display.blank 0 0 }.pixel 0 0 = true ∧ t.pixel 0 0 = false) ∧
    (∃ t, exec (.drw 0 0 1) State.reset = .next t ∧ ∀ r c, State.reset.pixel r c = true → t.pixel r c = true) :=
  ⟨⟨_, rfl, by decide, by decide⟩, _, rfl, fun r c h => by simp [State.reset, State.startup, State.pixel] at h⟩

/-- The glyph "0" drawn twice at (V0, V1), the second time from the state the first one left. -/
theorem witness_DrawTwiceRestoresTheBitmap :
    (0 : Reg) ≠ Reg.vF ∧ (1 : Reg) ≠ Reg.vF ∧ DrawInRange State.reset 5 ∧
    ∃ t v, exec (.drw 0 1 5) State.reset = .next t ∧ SameMemory t t ∧ exec (.drw 0 1 5) t = .next v ∧
      t.reg Reg.vF = 0 :=
  ⟨by decide, by decide, by unfold DrawInRange; decide, _, _, rfl, fun _ => rfl, rfl, by decide⟩

/-- The other side: the one pixel the sprite covers (row 0 of the glyph "1" is 0x20, column 2) was set before the first draw.
By R200's loop and R202 the first draw unsets it (VF = 1) and the second sets it again (VF = 0), although the sprite has a set
bit: R208's second bullet cannot hold here (log entry 12). -/
theorem witness_DrawTwiceRestoresTheBitmap_over_a_set_pixel :
    let s := { State.reset with i := 5, disp := Display.toggle Display.blank 0 2 }
    DrawInRange s 1 ∧ SpriteCovers s 0 1 1 0 2 ∧ s.pixel 0 2 = true ∧
    ∃ t v, exec (.drw 0 1 1) s = .next t ∧ exec (.drw 0 1 1) t = .next v ∧
      t.pixel 0 2 = false ∧ t.reg Reg.vF = 1 ∧ v.pixel 0 2 = true ∧ v.reg Reg.vF = 0 :=
  ⟨by unfold DrawInRange; decide, ⟨0, 2, by decide, by decide, by decide, by decide, by decide⟩, by decide,
    _, _, rfl, rfl, by decide, by decide, by decide, by decide⟩

/-- The conflict of log entry 12 for every definition of DRW V0, V1, 1, not only `execDrw`: one that toggles exactly the covered
pixels (R200, R201), writes VF by R202, and leaves the sprite where it is, cannot have R208's second bullet. -/
theorem no_draw_meets_r202_and_r208_bullet2 (draw : State → State)
    (toggles : ∀ s r c, (SpriteCovers s 0 1 1 r c → (draw s).pixel r c = !s.pixel r c) ∧
      (¬ SpriteCovers s 0 1 1 r c → (draw s).pixel r c = s.pixel r c))
    (flag : ∀ s, (∀ r c, s.pixel r c = true → (draw s).pixel r c = true) → (draw s).reg Reg.vF = 0)
    (sprite : ∀ s r c, SpriteCovers (draw s) 0 1 1 r c ↔ SpriteCovers s 0 1 1 r c) :
    ¬ ∀ s, ((draw (draw s)).reg Reg.vF = 1 ↔ ∃ r c, SpriteCovers s 0 1 1 r c) := by
  intro bullet
  let s : State := { State.reset with i := 5, disp := Vector.replicate 32 (Vector.replicate 64 true) }
  have hset : ∀ r c, s.pixel r c = true := fun r c => by simp [s, State.pixel]
  have hcov : SpriteCovers s 0 1 1 0 2 := ⟨0, 2, by decide, by decide, by decide, by decide, by decide⟩
  have h1 := (bullet s).2 ⟨0, 2, hcov⟩
  have h0 := flag (draw s) fun r c h => by
    by_cases hc : SpriteCovers s 0 1 1 r c
    · rw [((toggles s r c).1 hc), hset] at h; cases h
    · rw [(toggles (draw s) r c).2 (mt (sprite s r c).1 hc), h]
  rw [h1] at h0
  exact absurd h0 (by decide)

theorem witness_ClearScreenResult : Config.allRows.clsPresent = true ∧ Config.standard.clsPresent = false := ⟨rfl, rfl⟩

/-- The keys 3 and 10 down: the lowest is 3. No key down. -/
theorem witness_WaitForKeyResult :
    ({ State.reset with key := 0x0408 }.key.getLsbD (3 : Fin 16).val = true ∧
      ∀ j : Fin 16, j < 3 → { State.reset with key := 0x0408 }.key.getLsbD j.val = false) ∧ State.reset.key = 0 := by
  decide

theorem witness_TimerWriteTicksInTheSameCycle :
    ((at200 0xF015).mode = .running ∧ (at200 0xF015).quitIn = false ∧ (at200 0xF015).pc.toNat + 2 ≤ 4096 ∧
      decode (at200 0xF015).cfg (at200 0xF015).fetchWord = .ok (.ldDTVx 0)) ∧
    decode (at200 0xF018).cfg (at200 0xF018).fetchWord = .ok (.ldSTVx 0) := by decide

theorem witness_WaitIterationResult :
    let s := { at200 0xF30A with mode := .awaitingKey 3 }
    s.mode = .awaitingKey 3 ∧ s.quitIn = false ∧ s.keysIn = 0 ∧
    ((keys s 0x8000).keysIn.getLsbD (15 : Fin 16).val = true ∧
      ∀ j : Fin 16, j < 15 → (keys s 0x8000).keysIn.getLsbD j.val = false) := by decide

/-- X7: F30A at 0x200, two polls with no key, then key 0xA. -/
theorem witness_KeyWaitScenario :
    let last : HostInput := { keys := 0x0400, quit := false, rnd := 0 }
    let s := { at200 0xF30A with hostQueue := [HostInput.idle, HostInput.idle] ++ last :: [] }
    s.mode = .running ∧ s.quitIn = false ∧ s.keysIn = 0 ∧ s.pc.toNat + 2 ≤ 4096 ∧
    decode s.cfg s.fetchWord = .ok (.ldVxK 3) ∧ s.hostQueue = [HostInput.idle, HostInput.idle] ++ last :: [] ∧
    (∀ p ∈ [HostInput.idle, HostInput.idle], p.keys = 0 ∧ p.quit = false) ∧ last.quit = false ∧
    last.keys.getLsbD (0xA : Fin 16).val = true ∧ ∀ j : Fin 16, j < 0xA → last.keys.getLsbD j.val = false := by decide

theorem witness_StartupState :
    initialByte Config.standard 0 = 0xF0 ∧ initialByte Config.standard 79 = 0x80 ∧ initialByte Config.standard 80 = 0 ∧
    initialByte { Config.standard with fontBase := 432 } 511 = 0x80 := by decide

theorem witness_ProgramLoadResult :
    (List.replicate 3584 (0 : Byte)).length ≤ 3584 ∧ 3584 < (List.replicate 3585 (0 : Byte)).length := by
  rw [List.length_replicate, List.length_replicate]; decide

/-- A step that fetches no RND, and a step that fetches nothing. -/
theorem witness_RandomInputReachesOnlyRnd :
    (∀ x kk, decode (at200 0x6001).cfg (at200 0x6001).fetchWord ≠ .ok (.rnd x kk)) ∧
    { at200 0xC0FF with mode := .awaitingKey 0 }.mode ≠ .running := by
  refine ⟨fun x kk h => ?_, by decide⟩
  rw [show decode (at200 0x6001).cfg (at200 0x6001).fetchWord = .ok (.ldByte 0 1) by decide] at h
  cases h

/-- Each part of the state is changed by an instruction that the statement names. -/
theorem witness_EachPartIsWrittenOnlyByItsInstructions :
    (∃ t, exec (.ldI 1) State.reset = .next t ∧ t.i ≠ State.reset.i) ∧
    (∃ t, exec (.callAddr 1) State.reset = .next t ∧ t.stack ≠ State.reset.stack ∧ t.sp ≠ State.reset.sp) ∧
    (∃ t, exec (.ldDTVx 0) (regs State.reset [(0, 1)]) = .next t ∧ t.dt ≠ (regs State.reset [(0, 1)]).dt) ∧
    (∃ t, exec (.ldSTVx 0) (regs State.reset [(0, 1)]) = .next t ∧ t.st ≠ (regs State.reset [(0, 1)]).st) ∧
    (∃ t, exec (.drw 0 0 0) State.reset = .next t ∧ t.dirty ≠ State.reset.dirty) ∧
    (∃ t, exec (.ldBVx 0) State.reset = .next t ∧ t.mem ≠ State.reset.mem) :=
  ⟨⟨_, rfl, by decide⟩, ⟨_, rfl, by decide, by decide⟩, ⟨_, rfl, by decide⟩, ⟨_, rfl, by decide⟩, ⟨_, rfl, by decide⟩,
    _, rfl, by decide⟩

end Sys2Proof.Tests
end

/-! ### What an instruction does, by the cause table of R261

Where `errorOf` gives a cause, the instruction raises exactly that error. Every other instruction completes, or is an Fx0A that
waits. The statements on which fields an instruction, phase 2 and a step leave unchanged follow from these two. -/

namespace Sys2Proof.Machine

variable {i : Instr} {s t : State}

/-! ### The cause table as the handlers' own checks -/

/-- R52 in the cause table's arithmetic is the range check of the handlers. -/
theorem ite_mem_eq_map_rangeError (a n : Nat) :
    (if n ≠ 0 ∧ 4096 < a + n then some (BoundsKind.mem, max a 0x1000) else none) =
      (rangeError a n).map (Prod.mk .mem) := by
  split
  · next h => rw [(rangeError_eq_some_iff a n _).2 ⟨h, rfl⟩]; rfl
  · next h => rw [(rangeError_eq_none_iff a n).2 (by omega)]; rfl

theorem errorOf_drw (x y : Reg) (n : Nibble) :
    errorOf (.drw x y n) s = (rangeError s.base n.toNat).map (Prod.mk .mem) :=
  ite_mem_eq_map_rangeError s.i.toNat n.toNat

theorem errorOf_ldBVx (x : Reg) : errorOf (.ldBVx x) s = (rangeError s.base 3).map (Prod.mk .mem) := by
  rw [← ite_mem_eq_map_rangeError]
  simp [errorOf, State.base]

theorem errorOf_ldMemVx (x : Reg) :
    errorOf (.ldMemVx x) s = (rangeError s.base (blockLength x)).map (Prod.mk .mem) := by
  rw [← ite_mem_eq_map_rangeError]
  simp [errorOf, State.base, blockLength]

theorem errorOf_ldVxMem (x : Reg) :
    errorOf (.ldVxMem x) s = (rangeError s.base (blockLength x)).map (Prod.mk .mem) :=
  errorOf_ldMemVx x

theorem map_mem_eq_some_iff {o : Option Nat} {k : BoundsKind} {n : Nat} :
    o.map (Prod.mk BoundsKind.mem) = some (k, n) ↔ o = some n ∧ k = .mem := by
  cases o <;> simp [and_comm, eq_comm]

/-! ### The two kinds of outcome -/

/-- R261, R262: an instruction whose condition of the cause table holds raises the table's error. -/
theorem exec_of_errorOf_some {k : BoundsKind} {n : Nat} (h : errorOf i s = some (k, n)) :
    exec i s = s.raiseBounds i k n := by
  cases i with
  | callAddr nnn =>
    obtain ⟨hsp, rfl, rfl⟩ : s.sp.val = 16 ∧ BoundsKind.stackOverflow = k ∧ s.sp.val = n := by simpa [errorOf] using h
    exact exec_callAddr_overflow s nnn (by rw [hsp]; decide)
  | ret u =>
    obtain ⟨hsp, rfl, rfl⟩ : s.sp.val = 0 ∧ BoundsKind.stackUnderflow = k ∧ s.sp.val = n := by simpa [errorOf] using h
    exact exec_ret_underflow s u (by rw [hsp]; decide)
  | skp x =>
    obtain ⟨hkey, rfl, rfl⟩ : 15 < (s.reg x).toNat ∧ BoundsKind.keyIndex = k ∧ (s.reg x).toNat = n := by
      simpa [errorOf] using h
    exact exec_skp_error s x hkey
  | sknp x =>
    obtain ⟨hkey, rfl, rfl⟩ : 15 < (s.reg x).toNat ∧ BoundsKind.keyIndex = k ∧ (s.reg x).toNat = n := by
      simpa [errorOf] using h
    exact exec_sknp_error s x hkey
  | drw x y rows =>
    rw [errorOf_drw, map_mem_eq_some_iff] at h
    obtain ⟨hr, rfl⟩ := h
    exact exec_drw_error s x y rows n hr
  | ldBVx x =>
    rw [errorOf_ldBVx, map_mem_eq_some_iff] at h
    obtain ⟨hr, rfl⟩ := h
    exact exec_ldBVx_error s x n hr
  | ldMemVx x =>
    rw [errorOf_ldMemVx, map_mem_eq_some_iff] at h
    obtain ⟨hr, rfl⟩ := h
    exact exec_ldMemVx_error s x n hr
  | ldVxMem x =>
    rw [errorOf_ldVxMem, map_mem_eq_some_iff] at h
    obtain ⟨hr, rfl⟩ := h
    exact exec_ldVxMem_error s x n hr
  | _ => cases h

/-- R103: an instruction with no error completes in the mode it began in, and touches neither the latch, the configuration
nor the host's fields; or it is an Fx0A that finds no key and waits. -/
theorem exec_of_errorOf_none (h : errorOf i s = none) :
    (∃ t, exec i s = .next t ∧ t.mode = s.mode ∧ SameHost s t) ∨
    (∃ x, i = .ldVxK x ∧ s.lowestKey = none ∧ exec i s = .next (s.awaitKey x)) := by
  cases i with
  | callAddr nnn =>
    have hsp : s.sp.val < Config.stackDepth := by
      have hne : s.sp.val ≠ 16 := by simpa [errorOf] using h
      have := s.sp.isLt
      simp only [Config.stackDepth]; omega
    exact .inl ⟨_, exec_callAddr_push s nnn hsp, rfl, by simp [SameHost]⟩
  | ret u =>
    have hsp : s.sp.val ≠ 0 := by simpa [errorOf] using h
    exact .inl ⟨_, exec_ret_pop s u (Nat.pos_of_ne_zero hsp), rfl, by simp [SameHost]⟩
  | skp x =>
    have hkey : ¬ 15 < (s.reg x).toNat := by simpa [errorOf] using h
    exact .inl ⟨_, exec_skp_key s x (by omega), rfl, by simp [SameHost]⟩
  | sknp x =>
    have hkey : ¬ 15 < (s.reg x).toNat := by simpa [errorOf] using h
    exact .inl ⟨_, exec_sknp_key s x (by omega), rfl, by simp [SameHost]⟩
  | drw x y rows =>
    rw [errorOf_drw, Option.map_eq_none_iff] at h
    exact .inl ⟨_, exec_drw_draw s x y rows h, rfl, by simp [SameHost]⟩
  | ldBVx x =>
    rw [errorOf_ldBVx, Option.map_eq_none_iff] at h
    exact .inl ⟨_, exec_ldBVx_store s x h, by simp, by simp [SameHost]⟩
  | ldMemVx x =>
    rw [errorOf_ldMemVx, Option.map_eq_none_iff] at h
    exact .inl ⟨_, exec_ldMemVx_store s x h, by simp, by simp [SameHost]⟩
  | ldVxMem x =>
    rw [errorOf_ldVxMem, Option.map_eq_none_iff] at h
    exact .inl ⟨_, exec_ldVxMem_load s x h, by simp, by simp [SameHost]⟩
  | ldVxK x =>
    cases hk : s.lowestKey with
    | some k => exact .inl ⟨_, exec_ldVxK_take s x k hk, rfl, by simp [SameHost]⟩
    | none => exact .inr ⟨x, rfl, rfl, exec_ldVxK_wait s x hk⟩
  | _ => exact .inl ⟨_, rfl, rfl, by simp [SameHost]⟩

/-- The three outcomes of R103: Fault, by the cause table; Completed; Waiting. -/
theorem exec_cases (h : exec i s = .next t) :
    (∃ k n, errorOf i s = some (k, n) ∧ t = s.halt (.error (.boundsError k s.pc (some (encode i)) n))) ∨
    (errorOf i s = none ∧ t.mode = s.mode ∧ SameHost s t) ∨
    (errorOf i s = none ∧ ∃ x, i = .ldVxK x ∧ s.lowestKey = none ∧ t = s.awaitKey x) := by
  cases he : errorOf i s with
  | some cause =>
    rw [exec_of_errorOf_some he] at h
    cases h
    exact .inl ⟨cause.1, cause.2, rfl, rfl⟩
  | none =>
    rcases exec_of_errorOf_none he with ⟨u, hu, hframe⟩ | ⟨x, rfl, hk, hu⟩ <;> cases hu.symm.trans h
    · exact .inr (.inl ⟨rfl, hframe⟩)
    · exact .inr (.inr ⟨rfl, x, rfl, hk, rfl⟩)

/-! ### The host's side of the state -/

theorem sameHost_halt (s : State) (r : HaltReason) : SameHost s (s.halt r) := by simp [SameHost]

/-- No instruction changes the latch, the configuration or the host's fields, whether it completes, waits or raises. -/
theorem exec_sameHost (h : exec i s = .next t) : SameHost s t := by
  rcases exec_cases h with ⟨k, n, -, rfl⟩ | ⟨-, -, hhost⟩ | ⟨-, x, -, -, rfl⟩
  · exact sameHost_halt s _
  · exact hhost
  · simp [SameHost]

/-- Nor does phase 2 as a whole. -/
theorem execute_sameHost (h : execute s = .next t) : SameHost s t := by
  rcases execute_cases h with ⟨_, -, rfl⟩ | ⟨-, -, rfl⟩ | ⟨-, _, -, hexec⟩
  · exact sameHost_halt s _
  · exact sameHost_halt s _
  · exact exec_sameHost hexec

@[simp] theorem atPhase2_quitIn (s : State) : s.atPhase2.quitIn = s.quitIn := rfl

@[simp] theorem finishCycle_cfg (s : State) : s.finishCycle.cfg = s.cfg := by unfold State.finishCycle; split <;> rfl
@[simp] theorem finishCycle_quitIn (s : State) : s.finishCycle.quitIn = s.quitIn := by
  unfold State.finishCycle; split <;> rfl

/-- What a step does before the host acts leaves the configuration and `quit_in` alone. -/
theorem step_cfg_quitIn_before_host (h : step s = .next t) :
    ∃ u : State, t = u.hostActs ∧ u.cfg = s.cfg ∧ u.quitIn = s.quitIn := by
  obtain ⟨u, rfl, hu⟩ := step_cases h
  refine ⟨u, rfl, ?_⟩
  rcases hu with ⟨-, -, rfl⟩ | ⟨-, -, v, hv, rfl⟩ | ⟨-, x, k, -, -, rfl⟩ | ⟨-, x, -, -, rfl⟩
  · simp
  · obtain ⟨-, hcfg, -, -, -, hquit, -⟩ := execute_sameHost hv
    simp [hcfg, hquit]
  · simp
  · simp

/-! ### The obligations -/

/-- Settles O16: only `hostActs` writes `quit_in`, and it never clears it. -/
theorem configurationFixedAndQuitSticky : Obligations.ConfigurationFixedAndQuitSticky := by
  intro s t h
  obtain ⟨u, rfl, hcfg, hquit⟩ := step_cfg_quitIn_before_host h
  exact ⟨hcfg, fun hs => by simp [hquit, hs]⟩

/-- Settles O17: of the three outcomes of an instruction only a raise ends in `Halted`, and it is `State.halt` alone. -/
theorem raisingInstructionChangesOnlyTheMode : Obligations.RaisingInstructionChangesOnlyTheMode := by
  intro i s t r hrun hexec hhalt
  rcases exec_cases hexec with ⟨k, n, -, rfl⟩ | ⟨-, hmode, -⟩ | ⟨-, x, -, -, rfl⟩
  · rw [State.halt_mode, Mode.halted.injEq] at hhalt
    exact ⟨onlyMode_halt s _, _, hhalt.symm⟩
  · simp [hmode, hrun] at hhalt
  · simp at hhalt

end Sys2Proof.Machine

/-! ### What an instruction writes, and the invariant of the core

`Effect` lists the endings of the instructions by the parts of the state they write, and `exec_effect` says that `exec` has no
other. Who writes which part (O58) is read off it; so are the facts that O14 turns on, how an instruction moves PC, the return
addresses and memory. -/

namespace Sys2Proof.Machine

variable {i : Instr} {s t : State}

/-! ### The effects of the instructions -/

/-- What instruction `i` can leave behind from `s`, by the parts of the state it writes. The endings that several instructions
share (a raise, a write of registers, a skip, a jump) stand under any instruction; an ending that writes I, the stack, a timer,
the display or memory stands under its own. -/
inductive Effect (s : State) : Instr → State → Prop
  | raises (i : Instr) (r : HaltReason) : Effect s i (s.halt r)
  | waits (x : Reg) : Effect s (.ldVxK x) (s.awaitKey x)
  | regs (i : Instr) (v : Vector Byte 16) : Effect s i { s with v := v }.advance
  | skips (i : Instr) (c : Bool) : Effect s i (s.skipIf c)
  /-- R23: no jump target exceeds 0xFFF + 0xFF. -/
  | jumps (i : Instr) (target : Word) (h : target.toNat ≤ 0x10FE) : Effect s i (s.setPc target)
  | calls (nnn : Addr12) (h : s.sp.val < Config.stackDepth) :
      Effect s (.callAddr nnn) ((s.push (s.pc + 2) h).setPc (zextAddr nnn))
  | returns (u : Nibble) (h : 0 < s.sp.val) : Effect s (.ret u) (s.popToPc h)
  | loadsIndex (nnn : Addr12) (w : Word) : Effect s (.ldI nnn) (s.setI w).advance
  | addsIndex (x : Reg) (w : Word) : Effect s (.addIVx x) (s.setI w).advance
  | pointsAtGlyph (x : Reg) (w : Word) : Effect s (.ldFVx x) (s.setI w).advance
  | setsDelay (x : Reg) (b : Byte) : Effect s (.ldDTVx x) (s.setDT b).advance
  | setsSound (x : Reg) (b : Byte) : Effect s (.ldSTVx x) (s.setST b).advance
  | clears (u : Nibble) (d : Display) : Effect s (.cls u) (s.setDisplay d).advance
  | draws (x y : Reg) (n : Nibble) (d : Display) (f : Bool) :
      Effect s (.drw x y n) ((s.setDisplay d).setFlag f).advance
  | storesDigits (x : Reg) (bs : List Byte) (h : s.base + bs.length ≤ Config.memSize) :
      Effect s (.ldBVx x) (s.writeBytes s.base bs).advance
  | storesBlock (x : Reg) (bs : List Byte) (h : s.base + bs.length ≤ Config.memSize) :
      Effect s (.ldMemVx x) ((s.writeBytes s.base bs).bumpI x).advance
  | loadsBlock (x : Reg) : Effect s (.ldVxMem x) ((s.loadBlock s.base x).bumpI x).advance

theorem zextAddr_toNat_lt (nnn : Addr12) : (zextAddr nnn).toNat < 0x1000 := by
  have := nnn.isLt
  simp only [zextAddr, BitVec.toNat_setWidth]
  omega

/-- R171, D18: the target of JP V0, addr is not masked, and stays below 0x1000 + 0x100. -/
theorem jpV0_target_le (nnn : Addr12) (b : Byte) : (zextAddr nnn + zextByte b).toNat ≤ 0x10FE := by
  have := nnn.isLt
  have := b.isLt
  simp only [zextAddr, zextByte, BitVec.toNat_add, BitVec.toNat_setWidth]
  omega

/-- An instruction with no error by the cause table has one of the effects, as its side of its condition says. -/
theorem exec_effect_of_errorOf_none (h : errorOf i s = none) : ∃ t, exec i s = .next t ∧ Effect s i t := by
  cases i with
  | callAddr nnn =>
    have hne : s.sp.val ≠ 16 := by simpa [errorOf] using h
    have hsp : s.sp.val < Config.stackDepth := lt_of_le_of_ne (Nat.le_of_lt_succ s.sp.isLt) hne
    exact ⟨_, exec_callAddr_push s nnn hsp, .calls nnn hsp⟩
  | ret u =>
    have hsp : s.sp.val ≠ 0 := by simpa [errorOf] using h
    exact ⟨_, exec_ret_pop s u (Nat.pos_of_ne_zero hsp), .returns u _⟩
  | skp x =>
    have hkey : ¬ 15 < (s.reg x).toNat := by simpa [errorOf] using h
    exact ⟨_, exec_skp_key s x (by omega), .skips _ _⟩
  | sknp x =>
    have hkey : ¬ 15 < (s.reg x).toNat := by simpa [errorOf] using h
    exact ⟨_, exec_sknp_key s x (by omega), .skips _ _⟩
  | drw x y n =>
    rw [errorOf_drw, Option.map_eq_none_iff] at h
    exact ⟨_, exec_drw_draw s x y n h, .draws x y n _ _⟩
  | ldBVx x =>
    rw [errorOf_ldBVx, Option.map_eq_none_iff] at h
    exact ⟨_, exec_ldBVx_store s x h, .storesDigits x _ (((rangeError_eq_none_iff _ _).1 h).resolve_left (by decide))⟩
  | ldMemVx x =>
    rw [errorOf_ldMemVx, Option.map_eq_none_iff] at h
    have hr := ((rangeError_eq_none_iff _ _).1 h).resolve_left (Nat.succ_ne_zero _)
    exact ⟨_, exec_ldMemVx_store s x h, .storesBlock x _ (by rwa [length_regBlock])⟩
  | ldVxMem x =>
    rw [errorOf_ldVxMem, Option.map_eq_none_iff] at h
    exact ⟨_, exec_ldVxMem_load s x h, .loadsBlock x⟩
  | ldVxK x =>
    cases hk : s.lowestKey with
    | some k => exact ⟨_, exec_ldVxK_take s x k hk, .regs _ _⟩
    | none => exact ⟨_, exec_ldVxK_wait s x hk, .waits x⟩
  | jpAddr nnn => exact ⟨_, rfl, .jumps _ _ (by have := zextAddr_toNat_lt nnn; omega)⟩
  | jpV0 nnn => exact ⟨_, rfl, .jumps _ _ (jpV0_target_le nnn _)⟩
  | seByte | sneByte | seReg | sneReg => exact ⟨_, rfl, .skips _ _⟩
  | ldI nnn => exact ⟨_, rfl, .loadsIndex nnn _⟩
  | addIVx x => exact ⟨_, rfl, .addsIndex x _⟩
  | ldFVx x => exact ⟨_, rfl, .pointsAtGlyph x _⟩
  | ldDTVx x => exact ⟨_, rfl, .setsDelay x _⟩
  | ldSTVx x => exact ⟨_, rfl, .setsSound x _⟩
  | cls u => exact ⟨_, rfl, .clears u _⟩
  | _ => exact ⟨_, rfl, .regs _ _⟩

/-- Every instruction has one of the effects. -/
theorem exec_effect (h : exec i s = .next t) : Effect s i t := by
  cases he : errorOf i s with
  | some cause =>
    rw [exec_of_errorOf_some he] at h
    cases h
    exact .raises _ _
  | none =>
    obtain ⟨u, hu, heff⟩ := exec_effect_of_errorOf_none he
    cases hu.symm.trans h
    exact heff

/-! ### Who writes what -/

/-- Settles O58: each effect leaves the parts it does not name as they are, and an effect that names I, the stack, a timer, the
display or memory stands under the instructions the spec gives it. -/
theorem eachPartIsWrittenOnlyByItsInstructions : Obligations.EachPartIsWrittenOnlyByItsInstructions := by
  intro i s t h
  cases exec_effect h with
  | raises | waits | regs | skips | jumps => simp
  | loadsIndex | addsIndex | pointsAtGlyph => simp
  | calls | returns => simp
  | setsDelay | setsSound => simp
  | clears | draws => simp
  | storesDigits => simp
  | storesBlock | loadsBlock => cases hinc : s.cfg.loadStoreIncrementsI <;> simp [hinc]

/-! ### What an instruction keeps of the invariant -/

/-- Only LD B and LD [I] write memory, and only inside its bounds (R50, R52). -/
theorem exec_memory_wf (hm : Memory.wf s.cfg s.mem) (h : exec i s = .next t) : Memory.wf t.cfg t.mem := by
  cases exec_effect h with
  | storesDigits x bs hbs => simpa using s.writeBytes_wf s.base bs hm hbs
  | storesBlock x bs hbs => simpa using s.writeBytes_wf s.base bs hm hbs
  | _ => simpa using hm

theorem pc_add_two_le (hpc : s.pc.toNat + 2 ≤ Config.memSize) : (s.pc + 2).toNat ≤ 0x1000 := by
  simp only [Config.memSize] at hpc
  bv_omega

theorem pc_add_four_le (hpc : s.pc.toNat + 2 ≤ Config.memSize) : (s.pc + 4).toNat ≤ 0x1002 := by
  simp only [Config.memSize] at hpc
  bv_omega

/-- R23: the bound on PC, for an instruction that was fetched, under the bound on the return addresses. -/
theorem exec_pc_bound (hpc : s.pc.toNat + 2 ≤ Config.memSize) (hret : ∀ j : Fin 16, (s.stack[j]).toNat ≤ 0x1000)
    (h : exec i s = .next t) : t.pc.toNat ≤ 0x10FE := by
  have hadvance : (s.pc + 2).toNat ≤ 0x10FE := (pc_add_two_le hpc).trans (by decide)
  cases exec_effect h with
  | raises | waits => exact ((Nat.le_add_right _ 2).trans hpc).trans (by decide)
  | jumps _ _ htarget => exact htarget
  | calls nnn => exact (zextAddr_toNat_lt nnn).le.trans (by decide)
  | returns => exact (hret ⟨_, by omega⟩).trans (by decide)
  | skips _ c =>
    cases c with
    | false => exact hadvance
    | true => exact (pc_add_four_le hpc).trans (by decide)
  | _ => simpa using hadvance

/-- R172: the one return address pushed is that of a CALL that was fetched. -/
theorem exec_return_bound (hpc : s.pc.toNat + 2 ≤ Config.memSize) (hret : ∀ j : Fin 16, (s.stack[j]).toNat ≤ 0x1000)
    (h : exec i s = .next t) (j : Fin 16) : (t.stack[j]).toNat ≤ 0x1000 := by
  cases exec_effect h with
  | calls nnn hsp =>
    simp only [State.setPc_stack, State.push_stack, Fin.getElem_fin, Vector.getElem_set]
    split
    · exact pc_add_two_le hpc
    · exact hret j
  | _ => simpa using hret j

/-! ### What a step does to the invariant -/

/-- In a mode that is no wait the invariant is its first four parts. -/
theorem State.Inv.of_not_waiting (memory : Memory.wf s.cfg s.mem) (pc_bound : s.pc.toNat ≤ 0x10FE)
    (return_bound : ∀ j : Fin 16, (s.stack[j]).toNat ≤ 0x1000) (clean : s.dirty = false)
    (hmode : ∀ x, s.mode ≠ .awaitingKey x) : s.Inv :=
  ⟨memory, pc_bound, return_bound, clean, fun x hx => absurd hx (hmode x)⟩

/-- The host's inputs are no part of the invariant (R100). -/
theorem State.Inv.hostActs (h : s.Inv) : s.hostActs.Inv :=
  ⟨h.memory, h.pc_bound, h.return_bound, h.clean, h.waiting⟩

theorem State.Inv.clearOutputs (h : s.Inv) : s.clearOutputs.Inv :=
  ⟨h.memory, h.pc_bound, h.return_bound, h.clean, h.waiting⟩

/-- R107, R262: a halted core waits for no key. -/
theorem State.Inv.halt (h : s.Inv) (r : HaltReason) : (s.halt r).Inv :=
  .of_not_waiting h.memory h.pc_bound h.return_bound h.clean (by simp)

/-- The key refresh before an instruction (R240): in `Running` the invariant does not speak of the latch. -/
theorem State.Inv.atPhase2 (h : s.Inv) (hm : s.mode = .running) : s.atPhase2.Inv :=
  .of_not_waiting h.memory h.pc_bound h.return_bound h.clean (by simp [hm])

/-- R241: an Fx0A that finds no key waits at its own address, with no key down. -/
theorem State.Inv.awaitKey (h : s.Inv) {x : Reg} (hf : s.pc.toNat + 2 ≤ Config.memSize)
    (hd : decode s.cfg s.fetchWord = .ok (.ldVxK x)) (hk : s.lowestKey = none) : (s.awaitKey x).Inv := by
  refine ⟨h.memory, h.pc_bound, h.return_bound, h.clean, fun y hy => ?_⟩
  obtain rfl : x = y := by simpa using hy
  exact ⟨hf, hd, (lowestKey_eq_none_iff_key s).1 hk⟩

/-- R243: a wait iteration that finds no key changes the latch alone, to no key down. -/
theorem State.Inv.waitOn (h : s.Inv) (hk : s.atPhase2.lowestKey = none) : s.atPhase2.Inv := by
  refine ⟨h.memory, h.pc_bound, h.return_bound, h.clean, fun x hx => ?_⟩
  obtain ⟨hf, hd, -⟩ := h.waiting x hx
  exact ⟨hf, hd, (lowestKey_eq_none_iff_key s.atPhase2).1 hk⟩

/-- R243: a wait iteration that finds a key ends in `Running`, past the Fx0A. -/
theorem State.Inv.endWait (h : s.Inv) {x : Reg} (hm : s.mode = .awaitingKey x) (k : Fin 16) :
    (s.atPhase2.takeKey x k).resume.endCycle.Inv := by
  obtain ⟨hf, -, -⟩ := h.waiting x hm
  have hpc : (s.pc + 2).toNat ≤ 0x10FE := (pc_add_two_le hf).trans (by decide)
  exact .of_not_waiting h.memory hpc h.return_bound rfl (by simp)

/-- R101 to R106: phase 2 and what follows it keep the invariant, whether the instruction raises, completes or waits. -/
theorem State.Inv.finishCycle (h : s.Inv) (hm : s.mode = .running) (hexec : execute s = .next t) : t.finishCycle.Inv := by
  rcases execute_cases hexec with ⟨_, -, rfl⟩ | ⟨-, -, rfl⟩ | ⟨hf, i, hd, hi⟩
  · exact h.halt _
  · exact h.halt _
  · rcases exec_cases hi with ⟨_, _, -, rfl⟩ | ⟨-, hmode, -⟩ | ⟨-, x, rfl, hk, rfl⟩
    · exact h.halt _
    · have hmem := exec_memory_wf h.memory hi
      have hpc := exec_pc_bound hf h.return_bound hi
      have hret := exec_return_bound hf h.return_bound hi
      rw [finishCycle_running (hmode.trans hm)]
      exact .of_not_waiting hmem hpc hret rfl (by simp [hmode, hm])
    · exact h.awaitKey hf hd hk

/-- Settles O14: each of the four outcomes of a step keeps the invariant, and so does the host after it. -/
theorem stepKeepsInvariant : Obligations.StepKeepsInvariant := by
  intro s t h hstep
  obtain ⟨u, rfl, hu⟩ := step_cases hstep
  apply State.Inv.hostActs
  rcases hu with ⟨-, -, rfl⟩ | ⟨-, hm, v, hv, rfl⟩ | ⟨-, x, k, hm, -, rfl⟩ | ⟨-, x, hm, hk, rfl⟩
  · exact h.clearOutputs.halt .quit
  · exact (h.atPhase2 hm).finishCycle hm hv
  · exact h.endWait hm k
  · exact h.waitOn hk

end Sys2Proof.Machine

/-! ### Memory: what a fetch reads after a block store, and the canonical form -/

namespace Sys2Proof.Machine

/-! ### The block store -/

/-- R142: after a LD [I], Vx inside memory, register `z` of the block lies at I + `z`. -/
theorem exec_ldMemVx_readByte {x : Reg} {s t : State} (hrange : s.i.toNat + (x.val + 1) ≤ 4096)
    (hexec : exec (.ldMemVx x) s = .next t) (z : Reg) (hz : z ≤ x) : t.readByte (s.i.toNat + z.val) = s.reg z := by
  have hfits : rangeError s.base (blockLength x) = none := (rangeError_eq_none_iff _ _).2 (.inr hrange)
  have hlisted : z.val < (s.regBlock x).length := by simpa using Nat.lt_succ_of_le hz
  cases (exec_ldMemVx_store s x hfits).symm.trans hexec
  calc (((s.writeBytes s.base (s.regBlock x)).bumpI x).advance).readByte (s.i.toNat + z.val)
      = (s.writeBytes s.base (s.regBlock x)).readByte (s.base + z.val) := by simp [State.base]
    _ = (s.regBlock x)[z.val] := State.readByte_writeBytes_at s _ _ _ hlisted
    _ = s.reg z := getElem_regBlock s x _ hlisted

/-! ### The fetched word -/

/-- R53: the first byte of a word is the most significant one, and 16 bits hold both. -/
theorem wordOfBytes_toNat (hi lo : Byte) : (wordOfBytes hi lo).toNat = hi.toNat * 256 + lo.toNat := by
  have := hi.isLt
  have := lo.isLt
  exact Nat.mod_eq_of_lt (by omega)

/-- R102: a fetch reads the two bytes at PC. -/
theorem fetchWord_toNat (s : State) :
    s.fetchWord.toNat = (s.readByte s.pc.toNat).toNat * 256 + (s.readByte (s.pc.toNat + 1)).toNat :=
  wordOfBytes_toNat _ _

/-! ### The canonical form -/

/-- A canonical memory lists exactly what its addresses read as, where that differs from the startup contents. -/
theorem Memory.mem_iff_read {cfg : Config} {m : Memory} (hm : Memory.wf cfg m) (c : Host.Cell) :
    c ∈ m ↔ m.read cfg c.1 = c.2 ∧ c.1 < Config.memSize ∧ c.2 ≠ initialByte cfg c.1 := by
  constructor
  · intro hc
    exact ⟨Memory.read_of_mem cfg m hm c hc, hm.2 c hc⟩
  · rintro ⟨hread, -, hne⟩
    rw [← hread] at hne
    simpa [hread] using Memory.mem_of_read_ne cfg m hm c.1 hne

/-! ### The obligations -/

/-- Settles O36: the two bytes a fetch at the block's first address reads are V0 and V1. -/
theorem fetchSeesTheLastStore : Obligations.FetchSeesTheLastStore := by
  intro x s t u hrange hx hexec hmem hpc
  have h0 : u.readByte s.i.toNat = s.reg 0 :=
    (hmem _).trans (exec_ldMemVx_readByte hrange hexec 0 (Fin.zero_le x))
  have h1 : u.readByte (s.i.toNat + 1) = s.reg 1 :=
    (hmem _).trans (exec_ldMemVx_readByte hrange hexec 1 hx)
  rw [fetchWord_toNat, hpc, h0, h1]

/-- Settles O37: memories that read alike list the same cells, and a strictly rising list is determined by its cells. -/
theorem canonicalMemoriesAreEqualByReading : Obligations.CanonicalMemoriesAreEqualByReading := by
  intro cfg m m' hm hm' hread
  have hcells : ∀ c, c ∈ m ↔ c ∈ m' := by
    intro c
    rw [Memory.mem_iff_read hm, Memory.mem_iff_read hm']
    exact and_congr_left fun ⟨hlt, _⟩ => by rw [hread c.1 hlt]
  have : Std.Irrefl fun c d : Host.Cell => c.1 < d.1 := ⟨fun c => lt_irrefl c.1⟩
  have : Std.Antisymm fun c d : Host.Cell => c.1 < d.1 := ⟨fun c d hcd hdc => absurd hcd hdc.not_gt⟩
  exact hm.1.eq_of_mem_iff hm'.1 hcells

end Sys2Proof.Machine

/-! ### Encoding: what a word decodes to, and which words decode

`decode_eq_ok_iff` says that a word decodes to `i` exactly when it is the word of `i` and `i` is admitted, `decode_eq_error_iff`
that it is rejected exactly when R83 lists it. The statements on the opcode map follow from these two. -/

namespace Sys2Proof

variable {cfg : Config} {w : Word} {i j : Instr}

/-! ### The fields of a word -/

@[simp] theorem Word.x_val (w : Word) : (Word.x w).val = Word.field w 11 8 := Nat.mod_eq_of_lt (field_lt w 11 8)
@[simp] theorem Word.y_val (w : Word) : (Word.y w).val = Word.field w 7 4 := Nat.mod_eq_of_lt (field_lt w 7 4)
@[simp] theorem Word.nnn_toNat (w : Word) : (Word.nnn w).toNat = Word.field w 11 0 :=
  Nat.mod_eq_of_lt (field_lt w 11 0)
@[simp] theorem Word.imm_toNat (w : Word) : (Word.imm w).toNat = Word.kk w := Nat.mod_eq_of_lt (field_lt w 7 0)
@[simp] theorem Word.ignoredX_toNat (w : Word) : (Word.ignoredX w).toNat = Word.field w 11 8 :=
  Nat.mod_eq_of_lt (field_lt w 11 8)
@[simp] theorem Word.nibble_toNat (w : Word) : (Word.nibble w).toNat = Word.n w := Nat.mod_eq_of_lt (field_lt w 3 0)

/-! ### The rows of the opcode map -/

@[simp] theorem matchesWord_family_iff (c : Nat) : (OpRow.family c).matchesWord w = true ↔ Word.cls w = c := by
  simp [OpRow.family, OpRow.matchesWord, Word.cls]

@[simp] theorem matchesWord_byNibble_iff (c n : Nat) :
    (OpRow.byNibble c n).matchesWord w = true ↔ Word.cls w = c ∧ Word.n w = n := by
  simp [OpRow.byNibble, OpRow.matchesWord, Word.cls, Word.n]

@[simp] theorem matchesWord_byByte_iff (c kk : Nat) :
    (OpRow.byByte c kk).matchesWord w = true ↔ Word.cls w = c ∧ Word.kk w = kk := by
  simp [OpRow.byByte, OpRow.matchesWord, Word.cls, Word.kk]

@[simp] theorem pattern_family (c : Nat) : (OpRow.family c).pattern = c * 0x1000 := by
  simp [OpRow.family, OpRow.pattern]
@[simp] theorem pattern_byNibble (c n : Nat) : (OpRow.byNibble c n).pattern = c * 0x1000 + n := by
  simp [OpRow.byNibble, OpRow.pattern]
@[simp] theorem pattern_byByte (c kk : Nat) : (OpRow.byByte c kk).pattern = c * 0x1000 + kk := by
  simp [OpRow.byByte, OpRow.pattern]

/-! ### Operands read back from a word

One lemma a format of R72: a word that is its row's pattern and its operands has these operands in its fields. -/

theorem nnn_of_toNat {c : Nat} {nnn : Addr12} (h : w.toNat = (OpRow.family c).pattern + nnn.toNat) :
    Word.nnn w = nnn := by
  rw [pattern_family] at h
  have := nnn.isLt
  apply BitVec.eq_of_toNat_eq
  rw [Word.nnn_toNat, Word.field, h]
  omega

theorem x_imm_of_toNat {c : Nat} {x : Reg} {kk : Byte}
    (h : w.toNat = (OpRow.family c).pattern + (x.val * 0x100 + kk.toNat)) : Word.x w = x ∧ Word.imm w = kk := by
  rw [pattern_family] at h
  have := x.isLt
  have := kk.isLt
  refine ⟨Fin.ext ?_, BitVec.eq_of_toNat_eq ?_⟩
  · rw [Word.x_val, Word.field, h]; omega
  · rw [Word.imm_toNat, Word.kk, Word.field, h]; omega

theorem x_y_nibble_of_toNat {c : Nat} {x y : Reg} {n : Nibble}
    (h : w.toNat = (OpRow.family c).pattern + (x.val * 0x100 + y.val * 0x10 + n.toNat)) :
    Word.x w = x ∧ Word.y w = y ∧ Word.nibble w = n := by
  rw [pattern_family] at h
  have := x.isLt
  have := y.isLt
  have := n.isLt
  refine ⟨Fin.ext ?_, Fin.ext ?_, BitVec.eq_of_toNat_eq ?_⟩
  · rw [Word.x_val, Word.field, h]; omega
  · rw [Word.y_val, Word.field, h]; omega
  · rw [Word.nibble_toNat, Word.n, Word.field, h]; omega

theorem x_y_of_toNat {c n : Nat} {x y : Reg} (hn : Word.n w = n)
    (h : w.toNat = (OpRow.byNibble c n).pattern + (x.val * 0x100 + y.val * 0x10)) : Word.x w = x ∧ Word.y w = y := by
  rw [pattern_byNibble] at h
  have hlt : n < 0x10 := hn ▸ field_lt w 3 0
  have := x.isLt
  have := y.isLt
  refine ⟨Fin.ext ?_, Fin.ext ?_⟩
  · rw [Word.x_val, Word.field, h]; omega
  · rw [Word.y_val, Word.field, h]; omega

theorem field_11_8_of_toNat {c kk o : Nat} (hk : Word.kk w = kk) (ho : o < 0x10)
    (h : w.toNat = (OpRow.byByte c kk).pattern + o * 0x100) : Word.field w 11 8 = o := by
  rw [pattern_byByte] at h
  have hlt : kk < 0x100 := hk ▸ field_lt w 7 0
  rw [Word.field, h]
  omega

theorem x_of_toNat {c kk : Nat} {x : Reg} (hk : Word.kk w = kk)
    (h : w.toNat = (OpRow.byByte c kk).pattern + x.val * 0x100) : Word.x w = x :=
  Fin.ext ((Word.x_val w).trans (field_11_8_of_toNat hk x.isLt h))

theorem ignoredX_of_toNat {c kk : Nat} {u : Nibble} (hk : Word.kk w = kk)
    (h : w.toNat = (OpRow.byByte c kk).pattern + u.toNat * 0x100) : Word.ignoredX w = u :=
  BitVec.eq_of_toNat_eq ((Word.ignoredX_toNat w).trans (field_11_8_of_toNat hk u.isLt h))

/-! ### Decoding the word of an instruction -/

/-- An admitted instruction's word decodes to it. -/
theorem decode_encode (h : i.wellFormed cfg = true) : decode cfg (encode i) = .ok i := by
  obtain ⟨hrow, hval⟩ := Laws.FixedBits.all i
  generalize encode i = w at hrow hval ⊢
  cases i with
  | cls u =>
    obtain ⟨hc, hk⟩ := (matchesWord_byByte_iff _ _).1 hrow
    have hcls : cfg.clsPresent = true := h
    simp [decode, decodeFamily0, hc, hk, hcls, ignoredX_of_toNat hk hval]
  | ret u =>
    obtain ⟨hc, hk⟩ := (matchesWord_byByte_iff _ _).1 hrow
    simp [decode, decodeFamily0, hc, hk, ignoredX_of_toNat hk hval]
  | jpAddr nnn | callAddr nnn | ldI nnn | jpV0 nnn =>
    have hc := (matchesWord_family_iff _).1 hrow
    simp [decode, hc, nnn_of_toNat hval]
  | seByte x kk | sneByte x kk | ldByte x kk | addByte x kk | rnd x kk =>
    have hc := (matchesWord_family_iff _).1 hrow
    simp [decode, hc, x_imm_of_toNat hval]
  | seReg x y u | sneReg x y u | drw x y u =>
    have hc := (matchesWord_family_iff _).1 hrow
    simp [decode, hc, x_y_nibble_of_toNat hval]
  | ldReg x y | orReg x y | andReg x y | xorReg x y | addReg x y | subReg x y | shrReg x y | subnReg x y | shlReg x y =>
    obtain ⟨hc, hn⟩ := (matchesWord_byNibble_iff _ _).1 hrow
    simp [decode, decodeFamily8, hc, hn, x_y_of_toNat hn hval]
  | skp x | sknp x =>
    obtain ⟨hc, hk⟩ := (matchesWord_byByte_iff _ _).1 hrow
    simp [decode, decodeFamilyE, hc, hk, x_of_toNat hk hval]
  | ldVxDT x | ldVxK x | ldDTVx x | ldSTVx x | addIVx x | ldFVx x | ldBVx x | ldMemVx x | ldVxMem x =>
    obtain ⟨hc, hk⟩ := (matchesWord_byByte_iff _ _).1 hrow
    simp [decode, decodeFamilyF, hc, hk, x_of_toNat hk hval]

/-! ### Encoding what a word decodes to

One lemma a format of R72: the pattern of a row that matches a word, and the operands read from it, add up to the word. -/

/-- The word of an instruction is known by its value, the pattern of its row and its operands. -/
theorem encode_eq_of_toNat (h : i.opRow.pattern + i.operandBits = w.toNat) : encode i = w := by
  rw [encode, h, BitVec.ofNat_toNat, BitVec.setWidth_eq]

theorem family_add_nnn {c : Nat} (hc : Word.cls w = c) :
    (OpRow.family c).pattern + (Word.nnn w).toNat = w.toNat := by
  rw [pattern_family, Word.nnn_toNat, nnn_eq, word_toNat_eq w, ← hc, Word.cls]
  omega

theorem family_add_x_imm {c : Nat} (hc : Word.cls w = c) :
    (OpRow.family c).pattern + ((Word.x w).val * 0x100 + (Word.imm w).toNat) = w.toNat := by
  rw [pattern_family, Word.x_val, Word.imm_toNat, Word.kk, kk_eq, word_toNat_eq w, ← hc, Word.cls]
  omega

theorem family_add_x_y_nibble {c : Nat} (hc : Word.cls w = c) :
    (OpRow.family c).pattern + ((Word.x w).val * 0x100 + (Word.y w).val * 0x10 + (Word.nibble w).toNat) = w.toNat := by
  rw [pattern_family, Word.x_val, Word.y_val, Word.nibble_toNat, Word.n, word_toNat_eq w, ← hc, Word.cls]
  omega

theorem byNibble_add_x_y {c n : Nat} (hc : Word.cls w = c) (hn : Word.n w = n) :
    (OpRow.byNibble c n).pattern + ((Word.x w).val * 0x100 + (Word.y w).val * 0x10) = w.toNat := by
  rw [pattern_byNibble, Word.x_val, Word.y_val, word_toNat_eq w, ← hc, ← hn, Word.cls, Word.n]
  omega

theorem byByte_add_x {c kk : Nat} (hc : Word.cls w = c) (hk : Word.kk w = kk) :
    (OpRow.byByte c kk).pattern + (Word.x w).val * 0x100 = w.toNat := by
  rw [pattern_byByte, Word.x_val, word_toNat_eq w, ← hc, ← hk, Word.cls, Word.kk, kk_eq]
  omega

theorem byByte_add_ignoredX {c kk : Nat} (hc : Word.cls w = c) (hk : Word.kk w = kk) :
    (OpRow.byByte c kk).pattern + (Word.ignoredX w).toNat * 0x100 = w.toNat := by
  rw [Word.ignoredX_toNat, ← Word.x_val, byByte_add_x hc hk]

theorem encode_of_decodeFamily0 (hc : Word.cls w = 0x0) (h : decodeFamily0 cfg w = .ok i) :
    encode i = w ∧ i.wellFormed cfg = true := by
  unfold decodeFamily0 at h
  split at h
  · next hk => cases h; exact ⟨encode_eq_of_toNat (byByte_add_ignoredX hc hk), rfl⟩
  · next hk =>
    split at h <;> cases h
    next hcls => exact ⟨encode_eq_of_toNat (byByte_add_ignoredX hc hk), hcls⟩
  · cases h

theorem encode_of_decodeFamily8 (hc : Word.cls w = 0x8) (h : decodeFamily8 w = .ok i) :
    encode i = w ∧ i.wellFormed cfg = true := by
  unfold decodeFamily8 at h
  split at h <;> cases h <;> exact ⟨encode_eq_of_toNat (byNibble_add_x_y hc ‹_›), rfl⟩

theorem encode_of_decodeFamilyE (hc : Word.cls w = 0xE) (h : decodeFamilyE w = .ok i) :
    encode i = w ∧ i.wellFormed cfg = true := by
  unfold decodeFamilyE at h
  split at h <;> cases h <;> exact ⟨encode_eq_of_toNat (byByte_add_x hc ‹_›), rfl⟩

theorem encode_of_decodeFamilyF (hc : Word.cls w = 0xF) (h : decodeFamilyF w = .ok i) :
    encode i = w ∧ i.wellFormed cfg = true := by
  unfold decodeFamilyF at h
  split at h <;> cases h <;> exact ⟨encode_eq_of_toNat (byByte_add_x hc ‹_›), rfl⟩

/-- A word that decodes is the word of the instruction it decodes to, and the configuration admits that instruction. -/
theorem encode_of_decode (h : decode cfg w = .ok i) : encode i = w ∧ i.wellFormed cfg = true := by
  unfold decode at h
  split at h
  case h_1 hc => exact encode_of_decodeFamily0 hc h
  case h_9 hc => exact encode_of_decodeFamily8 hc h
  case h_15 hc => exact encode_of_decodeFamilyE hc h
  case h_16 hc => exact encode_of_decodeFamilyF hc h
  case h_17 => cases h
  case h_2 hc | h_3 hc | h_11 hc | h_12 hc => cases h; exact ⟨encode_eq_of_toNat (family_add_nnn hc), rfl⟩
  case h_4 hc | h_5 hc | h_7 hc | h_8 hc | h_13 hc => cases h; exact ⟨encode_eq_of_toNat (family_add_x_imm hc), rfl⟩
  case h_6 hc | h_10 hc | h_14 hc => cases h; exact ⟨encode_eq_of_toNat (family_add_x_y_nibble hc), rfl⟩

/-- The decoder is the inverse of the encoder on the admitted instructions. -/
theorem decode_eq_ok_iff : decode cfg w = .ok i ↔ encode i = w ∧ i.wellFormed cfg = true := by
  refine ⟨encode_of_decode, ?_⟩
  rintro ⟨rfl, hwf⟩
  exact decode_encode hwf

/-! ### The words that do not decode -/

open Machine (IllegalWord)

/-- The list of R83 in the fields the decoder dispatches on. -/
theorem illegalWord_iff : IllegalWord cfg w ↔
    (Word.cls w = 0x0 ∧ Word.kk w ≠ 0xEE ∧ ¬ (Word.kk w = 0xE0 ∧ cfg.clsPresent = true)) ∨
    (Word.cls w = 0x8 ∧ Word.n w ∈ [0x8, 0x9, 0xA, 0xB, 0xC, 0xD, 0xF]) ∨
    (Word.cls w = 0xE ∧ Word.kk w ∉ [0x9E, 0xA1]) ∨
    (Word.cls w = 0xF ∧ Word.kk w ∉ [0x07, 0x0A, 0x15, 0x18, 0x1E, 0x29, 0x33, 0x55, 0x65]) := by
  have hc : w.toNat / 0x1000 = Word.cls w := by
    have := w.isLt
    simp only [Word.cls, Word.field]
    omega
  have hk : w.toNat % 0x100 = Word.kk w := by simp [Word.kk, Word.field]
  have hn : w.toNat % 0x10 = Word.n w := by simp [Word.n, Word.field]
  rw [IllegalWord, hc, hk, hn]

theorem decodeFamily0_eq_error_iff {r : DecodeReject} : decodeFamily0 cfg w = .error r ↔
    r = .illegal w ∧ Word.kk w ≠ 0xEE ∧ ¬ (Word.kk w = 0xE0 ∧ cfg.clsPresent = true) := by
  unfold decodeFamily0
  split
  · simp [*]
  · split <;> simp [*, eq_comm (a := r)]
  · simp_all [eq_comm (a := r)]

theorem decodeFamily8_eq_error_iff {r : DecodeReject} : decodeFamily8 w = .error r ↔
    r = .illegal w ∧ Word.n w ∈ [0x8, 0x9, 0xA, 0xB, 0xC, 0xD, 0xF] := by
  have hn : Word.n w < 0x10 := field_lt w 3 0
  unfold decodeFamily8
  split
  case h_10 =>
    have hmem : Word.n w ∈ [0x8, 0x9, 0xA, 0xB, 0xC, 0xD, 0xF] := by
      simp only [imp_false] at *
      simp only [List.mem_cons, List.not_mem_nil]
      omega
    simp [hmem, eq_comm (a := r)]
  all_goals simp [*]

theorem decodeFamilyE_eq_error_iff {r : DecodeReject} : decodeFamilyE w = .error r ↔
    r = .illegal w ∧ Word.kk w ∉ [0x9E, 0xA1] := by
  unfold decodeFamilyE
  split <;> simp_all [eq_comm (a := r)]

theorem decodeFamilyF_eq_error_iff {r : DecodeReject} : decodeFamilyF w = .error r ↔
    r = .illegal w ∧ Word.kk w ∉ [0x07, 0x0A, 0x15, 0x18, 0x1E, 0x29, 0x33, 0x55, 0x65] := by
  unfold decodeFamilyF
  split <;> simp_all [eq_comm (a := r)]

/-- R83: the decoder rejects the listed words alone, and by name. -/
theorem decode_eq_error_iff {r : DecodeReject} : decode cfg w = .error r ↔ r = .illegal w ∧ IllegalWord cfg w := by
  rw [illegalWord_iff]
  unfold decode
  split
  case h_1 hc => simp [hc, decodeFamily0_eq_error_iff]
  case h_9 hc => simp [hc, decodeFamily8_eq_error_iff]
  case h_15 hc => simp [hc, decodeFamilyE_eq_error_iff]
  case h_16 hc => simp [hc, decodeFamilyF_eq_error_iff]
  case h_17 =>
    have hc : Word.cls w < 0x10 := field_lt w 15 12
    simp only [imp_false] at *
    omega
  all_goals simp [*]

/-! ### The rows a word belongs to -/

theorem opRow_mem_opcodeTable (i : Instr) : i.opRow ∈ opcodeTable := by
  cases i <;> simp [opcodeTable, opcodeRows, Instr.opRow]

/-- Rows that fix a field at different values share no word. -/
theorem not_matchesWord_of_disjoint {a b : OpRow} (h : a.disjoint b = true) :
    ¬ (a.matchesWord w = true ∧ b.matchesWord w = true) := by
  rintro ⟨ha, hb⟩
  simp only [OpRow.matchesWord, List.all_eq_true, beq_iff_eq] at ha hb
  simp only [OpRow.disjoint, List.any_eq_true, Bool.and_eq_true, beq_iff_eq, bne_iff_ne] at h
  obtain ⟨f, hf, g, hg, ⟨hhi, hlo⟩, hne⟩ := h
  exact hne (by rw [← ha f hf, ← hb g hg, hhi, hlo])

/-- R85: no word belongs to two rows of the opcode map. -/
theorem opRow_unique (hi : i.opRow.matchesWord w = true) (hj : j.opRow.matchesWord w = true) : j.opRow = i.opRow := by
  by_contra hne
  have hdisjoint : opcodeTable.Pairwise fun a b => a.disjoint b = true := by decide
  have hrows : opcodeTable.Pairwise fun a b => ¬ (a.matchesWord w = true ∧ b.matchesWord w = true) :=
    hdisjoint.imp not_matchesWord_of_disjoint
  have : Std.Symm fun a b : OpRow => ¬ (a.matchesWord w = true ∧ b.matchesWord w = true) :=
    ⟨fun _ _ h hba => h hba.symm⟩
  exact hrows.forall (opRow_mem_opcodeTable j) (opRow_mem_opcodeTable i) hne ⟨hj, hi⟩

/-! ### The obligations -/

/-- Settles O1: the opcode class and the selector of the word lead the decoder to the instruction's arm, and each operand is
read back from its field. -/
theorem decodeOfEncode : Obligations.DecodeOfEncode := fun _ _ h => decode_eq_ok_iff.2 ⟨rfl, h⟩

/-- Settles O2: in every arm of the decoder, the row's pattern and the operands read add up to the word. -/
theorem encodeOfDecode : Obligations.EncodeOfDecode := fun _ _ _ => decode_eq_ok_iff.1

/-- Settles O3: the decoder answers an error for the words of R83 alone, and that error names the word. -/
theorem illegalWordsAreTheListedOnes : Obligations.IllegalWordsAreTheListedOnes := by
  intro cfg w
  refine ⟨fun hill => decode_eq_error_iff.2 ⟨rfl, hill⟩, fun hlegal => ?_⟩
  cases hd : decode cfg w with
  | ok i => exact ⟨i, rfl⟩
  | error r => exact absurd (decode_eq_error_iff.1 hd).2 hlegal

/-- Settles O4: the word is that of its instruction, so it has the bits of that row, and no two rows share a word. -/
theorem decodedWordBelongsToOneRow : Obligations.DecodedWordBelongsToOneRow := by
  intro cfg w i j h
  obtain ⟨rfl, -⟩ := encode_of_decode h
  have hi : i.opRow.matchesWord (encode i) = true := (Laws.FixedBits.all i).1
  exact ⟨opRow_unique hi, fun hrow => hrow ▸ hi⟩

/-- Settles O5, by running the decoder on each word. -/
theorem sampleWordsDecode : Obligations.SampleWordsDecode := by
  unfold Obligations.SampleWordsDecode
  decide

end Sys2Proof

/-! ### Where the decoder reads -/

namespace Sys2Proof.Machine

variable {i : Instr} {s t : State}

/-! ### DecodeError -/

/-- R83, R103: a step that fetches an illegal word changes the mode alone, before the host acts. -/
theorem step_of_illegal (hm : s.mode = .running) (hq : s.quitIn = false) (hf : s.pc.toNat + 2 ≤ Config.memSize)
    (h : IllegalWord s.cfg s.fetchWord) :
    step s = .next (s.atPhase2.halt (.error (.decodeError s.pc s.fetchWord))).hostActs :=
  step_of_execute hm hq (execute_of_illegal (s := s.atPhase2) hf (decode_eq_error_iff.2 ⟨rfl, h⟩))

/-- No instruction raises a DecodeError: it stays in its mode, waits, or raises a BoundsError. -/
theorem exec_ne_decodeError (hm : s.mode = .running) (h : exec i s = .next t) (pc word : Word) :
    t.mode ≠ .halted (.error (.decodeError pc word)) := by
  rcases exec_cases h with ⟨k, n, -, rfl⟩ | ⟨-, hmode, -⟩ | ⟨-, x, -, -, rfl⟩
  · simp
  · simp [hmode, hm]
  · simp

@[simp] theorem finishCycle_mode (s : State) : s.finishCycle.mode = s.mode := by
  unfold State.finishCycle; split <;> rfl

/-- A step ends in a DecodeError only by fetching an illegal word, the one at PC. -/
theorem illegalWord_of_step {pc word : Word} (h : step s = .next t)
    (ht : t.mode = .halted (.error (.decodeError pc word))) :
    s.mode = .running ∧ s.quitIn = false ∧ s.pc.toNat + 2 ≤ Config.memSize ∧ pc = s.pc ∧ word = s.fetchWord ∧
      IllegalWord s.cfg s.fetchWord := by
  obtain ⟨u, rfl, hu⟩ := step_cases h
  rcases hu with ⟨-, -, rfl⟩ | ⟨hq, hm, v, hv, rfl⟩ | ⟨-, x, k, -, -, rfl⟩ | ⟨-, x, hm, -, rfl⟩
  · simp at ht
  · rw [State.hostActs_mode, finishCycle_mode] at ht
    rcases execute_cases hv with ⟨_, -, rfl⟩ | ⟨hf, ⟨r, hr⟩, rfl⟩ | ⟨-, i, -, hi⟩
    · simp at ht
    · obtain ⟨rfl, rfl⟩ : s.pc = pc ∧ s.fetchWord = word := by simpa using ht
      exact ⟨hm, hq, hf, rfl, rfl, (decode_eq_error_iff.1 hr).2⟩
    · exact absurd ht (exec_ne_decodeError (s := s.atPhase2) hm hi pc word)
  · simp at ht
  · simp [hm] at ht

/-! ### Bytes the fetch does not read -/

/-- The fetched word is known by the two bytes at PC. -/
theorem fetchWord_congr (hpc : t.pc = s.pc) (h0 : t.readByte s.pc.toNat = s.readByte s.pc.toNat)
    (h1 : t.readByte (s.pc.toNat + 1) = s.readByte (s.pc.toNat + 1)) : t.fetchWord = s.fetchWord := by
  rw [State.fetchWord, State.fetchWord, hpc, h0, h1]

theorem fetchWord_writeByte_elsewhere {a : Nat} (b : Byte) (h0 : a ≠ s.pc.toNat) (h1 : a ≠ s.pc.toNat + 1) :
    (s.writeByte a b).fetchWord = s.fetchWord := by
  apply fetchWord_congr (s.writeByte_pc a b)
  · rw [State.readByte_writeByte, if_neg h0.symm]
  · rw [State.readByte_writeByte, if_neg h1.symm]

theorem fetchWord_writeBytes_after {a : Nat} (bs : List Byte) (h : s.pc.toNat + 2 ≤ a) :
    (s.writeBytes a bs).fetchWord = s.fetchWord := by
  apply fetchWord_congr (s.writeBytes_pc a bs)
  · exact s.readByte_writeBytes_below a _ bs (by omega)
  · exact s.readByte_writeBytes_below a _ bs (by omega)

/-! ### Skips -/

/-- R104, R180: a skip with no error moves PC by 4 or by 2, as the table says, and does nothing else. -/
theorem exec_skip (hskip : isSkip i = true) (h : errorOf i s = none) :
    ∃ c : Bool, exec i s = .next (s.skipIf c) ∧ pcAfter i s = if c then s.pc.toNat + 4 else s.pc.toNat + 2 := by
  cases i with
  | seByte x kk | sneByte x kk => exact ⟨_, rfl, by simp [pcAfter]⟩
  | seReg x y u | sneReg x y u => exact ⟨_, rfl, by simp [pcAfter]⟩
  | skp x =>
    have hkey : (s.reg x).toNat < 16 := by simpa [errorOf, Nat.lt_succ_iff] using h
    exact ⟨_, exec_skp_key s x hkey, rfl⟩
  | sknp x =>
    have hkey : (s.reg x).toNat < 16 := by simpa [errorOf, Nat.lt_succ_iff] using h
    exact ⟨_, exec_sknp_key s x hkey, by simp [pcAfter, State.keyDown]⟩
  | _ => cases hskip

theorem skipIf_pc_toNat (c : Bool) (h : s.pc.toNat + 4 ≤ Config.memSize) :
    (s.skipIf c).pc.toNat = if c then s.pc.toNat + 4 else s.pc.toNat + 2 := by
  simp only [Config.memSize] at h
  cases c
  · simp only [State.skipIf_pc, Bool.false_eq_true, if_false]; bv_omega
  · simp only [State.skipIf_pc, if_true]; bv_omega

/-- What a skip raises and where it goes does not hang on memory. -/
theorem errorOf_skip_writeBytes (hskip : isSkip i = true) (a : Nat) (bs : List Byte) :
    errorOf i (s.writeBytes a bs) = errorOf i s := by
  cases i with
  | skp x | sknp x => simp [errorOf]
  | seByte | sneByte | seReg | sneReg => rfl
  | _ => cases hskip

theorem pcAfter_writeBytes (i : Instr) (s : State) (a : Nat) (bs : List Byte) :
    pcAfter i (s.writeBytes a bs) = pcAfter i s := by
  cases i <;> simp [pcAfter]

theorem atPhase2_writeBytes (s : State) (a : Nat) (bs : List Byte) :
    (s.writeBytes a bs).atPhase2 = s.atPhase2.writeBytes a bs := by
  induction bs generalizing s a with
  | nil => rfl
  | cons b rest ih => exact ih (s.writeByte a b) (a + 1)

/-- R104: a step that fetches a skip with no error goes on in `Running` at the PC of the table. -/
theorem step_of_skip (hm : s.mode = .running) (hq : s.quitIn = false) (hpc : s.pc.toNat + 4 ≤ Config.memSize)
    (hd : decode s.cfg s.fetchWord = .ok i) (hskip : isSkip i = true) (herr : errorOf i s.atPhase2 = none) :
    ∃ t, step s = .next t ∧ t.mode = .running ∧ t.pc.toNat = pcAfter i s.atPhase2 := by
  obtain ⟨c, hexec, hafter⟩ := exec_skip hskip herr
  have hf : s.pc.toNat + 2 ≤ Config.memSize := (Nat.add_le_add_left (by decide) _).trans hpc
  have hrun : execute s.atPhase2 = .next (s.atPhase2.skipIf c) := by
    rw [execute_of_decode (s := s.atPhase2) hf hd, hexec]
  refine ⟨_, step_of_execute hm hq hrun, by simp [hm], ?_⟩
  rw [finishCycle_running (by simpa using hm), hafter]
  exact skipIf_pc_toNat (s := s.atPhase2) c hpc

/-! ### The obligation -/

/-- Settles O59: the row of an instruction stands in the table; of the outcomes of a step only a fetched illegal word is a
DecodeError; and stores away from PC change neither the fetched word nor what a skip does. -/
theorem dataIsDecodedOnlyWhereControlReachesIt : Obligations.DataIsDecodedOnlyWhereControlReachesIt := by
  refine ⟨fun _ _ i _ => opRow_mem_opcodeTable i, ?_, ?_, ?_⟩
  · intro s t h pc word
    refine ⟨illegalWord_of_step h, ?_⟩
    rintro ⟨hm, hq, hf, rfl, rfl, hill⟩
    cases (step_of_illegal hm hq hf hill).symm.trans h
    rfl
  · exact fun s a b h0 h1 => fetchWord_writeByte_elsewhere b h0 h1
  · intro s i data data' hm hq hpc hd hskip herr
    rw [← pcAfter_writeBytes i (phase2State s) (s.pc.toNat + 2) [data, data']]
    rw [← errorOf_skip_writeBytes hskip (s.pc.toNat + 2) [data, data']] at herr
    have hphase : (s.writeBytes (s.pc.toNat + 2) [data, data']).atPhase2 =
        (phase2State s).writeBytes (s.pc.toNat + 2) [data, data'] := atPhase2_writeBytes s _ _
    rw [← hphase] at herr ⊢
    refine step_of_skip ?_ ?_ ?_ ?_ hskip herr
    · rwa [State.writeBytes_mode]
    · rwa [State.writeBytes_quitIn]
    · rwa [State.writeBytes_pc]
    · rwa [fetchWord_writeBytes_after _ le_rfl, State.writeBytes_cfg]

end Sys2Proof.Machine

/-! ### The engine: what ends a step, and what a step leaves

A step in `Running` is phase 2 from `State.atPhase2` and what follows it; in `AwaitingKey` it looks for a key; a quit stops
either before it begins. An instruction that does not go on in `Running` has written the mode alone (`exec_onlyMode`), so the
rules on the timers, the display request and PC need a look at the completed instructions only. -/

namespace Sys2Proof.Machine

variable {i : Instr} {s t : State}

/-! ### Halting -/

theorem haltOut_of_halted {r : HaltReason} (h : s.mode = .halted r) : s.haltOut = some r := by
  simp [State.haltOut, h]

/-- R108: no step leaves `Halted`. -/
theorem step_ne_next_of_halted {r : HaltReason} (h : s.mode = .halted r) (t : State) : step s ≠ .next t := by
  cases r with
  | quit => simp [step_halted_quit h]
  | error e => simp [step_halted_error h]

/-- R107, R245: a quit is seen before the key refresh, in an outer cycle and in a wait iteration alike. -/
theorem step_of_quit (hq : s.quitIn = true) (hm : s.mode = .running ∨ ∃ x, s.mode = .awaitingKey x) :
    step s = .next (s.clearOutputs.halt .quit).hostActs := by
  have hq' : s.clearOutputs.quitIn = true := hq
  rcases hm with hm | ⟨x, hm⟩
  · rw [step_running hm, cycle, if_pos hq', mapNext_next]
  · rw [step_awaiting hm, waitIteration, if_pos hq', mapNext_next]

/-- A program does not see the mode. -/
theorem OnlyMode.programStateSame (h : OnlyMode s t) : ProgramStateSame s t := by
  obtain ⟨hregs, hmem, hindex, hstack, htimers, hdisplay, ⟨-, hcfg, -⟩, hpc⟩ := h
  exact ⟨hregs, hmem, hindex, hstack, htimers, hdisplay, hpc, hcfg⟩

/-- R262: a step that ends in an error has refreshed the keys and entered `Halted`, of which a program sees nothing. -/
theorem programStateSame_atPhase2_halt (s : State) (r : HaltReason) :
    ProgramStateSame s (s.atPhase2.halt r).hostActs :=
  (onlyMode_halt s.atPhase2 r).programStateSame

/-- R107: nor does it see anything of a quit. -/
theorem programStateSame_clearOutputs_halt (s : State) (r : HaltReason) :
    ProgramStateSame s (s.clearOutputs.halt r).hostActs :=
  (onlyMode_halt s.clearOutputs r).programStateSame

/-- Settles O8: the step is the key refresh and the entry into `Halted`, and neither is seen by a program. -/
theorem illegalWordHalts : Obligations.IllegalWordHalts := by
  intro s hm hq hf hill
  exact ⟨_, step_of_illegal hm hq hf hill, rfl, programStateSame_atPhase2_halt s _, rfl, rfl⟩

/-- Settles O9: the step is the entry into `Halted` with the outputs off. -/
theorem quitHaltsBeforeAnythingElse : Obligations.QuitHaltsBeforeAnythingElse := by
  intro s hq hm
  exact ⟨_, step_of_quit hq hm, rfl, programStateSame_clearOutputs_halt s _, rfl, rfl, rfl⟩

/-- Settles O10: `halt_out` reads the mode, and `step` answers a fault in `Halted` whatever the reason. -/
theorem haltedHasNoStep : Obligations.HaltedHasNoStep :=
  fun _ _ h => ⟨haltOut_of_halted h, step_ne_next_of_halted h⟩

/-! ### Every mode but `Halted` has a step -/

theorem exec_total (i : Instr) (s : State) : ∃ t, exec i s = .next t := by
  cases he : errorOf i s with
  | some cause => exact ⟨_, exec_of_errorOf_some he⟩
  | none =>
    obtain ⟨t, ht, -⟩ := exec_effect_of_errorOf_none he
    exact ⟨t, ht⟩

theorem execute_total (s : State) : ∃ t, execute s = .next t := by
  cases hr : rangeError s.pc.toNat 2 with
  | some addr => exact ⟨_, execute_of_fetch_error hr⟩
  | none =>
    have hf : s.pc.toNat + 2 ≤ Config.memSize := ((rangeError_eq_none_iff _ _).1 hr).resolve_left (by decide)
    cases hd : decode s.cfg s.fetchWord with
    | error r => exact ⟨_, execute_of_illegal hf hd⟩
    | ok i =>
      rw [execute_of_decode hf hd]
      exact exec_total i s

theorem step_total_of_running (hm : s.mode = .running) : ∃ t, step s = .next t := by
  cases hq : s.quitIn with
  | true => exact ⟨_, step_of_quit hq (.inl hm)⟩
  | false =>
    obtain ⟨v, hv⟩ := execute_total s.atPhase2
    exact ⟨_, step_of_execute hm hq hv⟩

theorem step_total_of_awaiting {x : Reg} (hm : s.mode = .awaitingKey x) : ∃ t, step s = .next t := by
  cases hq : s.quitIn with
  | true => exact ⟨_, step_of_quit hq (.inr ⟨x, hm⟩)⟩
  | false =>
    cases hk : s.atPhase2.lowestKey with
    | some k => exact ⟨_, step_of_key hm hq hk⟩
    | none => exact ⟨_, step_of_no_key hm hq hk⟩

/-- R33, R108: the engine has a step exactly in the modes that are not `Halted`. -/
theorem step_total_iff : (∃ t, step s = .next t) ↔ ∀ r, s.mode ≠ .halted r := by
  constructor
  · rintro ⟨t, ht⟩ r hr
    exact step_ne_next_of_halted hr t ht
  · intro hlive
    cases hm : s.mode with
    | running => exact step_total_of_running hm
    | awaitingKey x => exact step_total_of_awaiting hm
    | halted r => exact absurd hm (hlive r)

/-- Settles O18: every side of every check in an instruction, in phase 2 and in a wait iteration answers a state. -/
theorem engineStepsUnlessHalted : Obligations.EngineStepsUnlessHalted :=
  ⟨exec_total, fun _ => step_total_iff, fun _ _ => step_halted_error, fun _ => step_halted_quit⟩

/-! ### Phases 2 to 4 -/

/-- Settles O6: `execute` answers what `exec` does, and `finishCycle` is phases 3 and 4 in `Running` alone. -/
theorem stepRunsTheDecodedInstruction : Obligations.StepRunsTheDecodedInstruction := by
  intro s t i hm hq hf hd hexec
  have hrun : execute s.atPhase2 = .next t := (execute_of_decode (s := s.atPhase2) hf hd).trans hexec
  rw [step_of_execute hm hq hrun]
  cases ht : t.mode with
  | running => rw [finishCycle_running ht]; rfl
  | awaitingKey x => rw [finishCycle_awaiting ht]
  | halted r => rw [finishCycle_halted ht]

theorem finishCycle_of_not_running (h : s.mode ≠ .running) : s.finishCycle = s := by
  cases hm : s.mode with
  | running => exact absurd hm h
  | awaitingKey x => exact finishCycle_awaiting hm
  | halted r => exact finishCycle_halted hm

/-- R103, R241, R262: an instruction that waits or faults writes the mode alone. -/
theorem exec_onlyMode (hm : s.mode = .running) (h : exec i s = .next t) (hstop : t.mode ≠ .running) : OnlyMode s t := by
  rcases exec_cases h with ⟨k, n, -, rfl⟩ | ⟨-, hmode, -⟩ | ⟨-, x, -, -, rfl⟩
  · exact onlyMode_halt s _
  · exact absurd (hmode.trans hm) hstop
  · exact onlyMode_awaitKey s x

/-- So does phase 2 as a whole, the fetch and the decoder's error included. -/
theorem execute_onlyMode (hm : s.mode = .running) (h : execute s = .next t) (hstop : t.mode ≠ .running) :
    OnlyMode s t := by
  rcases execute_cases h with ⟨_, -, rfl⟩ | ⟨-, -, rfl⟩ | ⟨-, i, -, hexec⟩
  · exact onlyMode_halt s _
  · exact onlyMode_halt s _
  · exact exec_onlyMode hm hexec hstop

/-! ### The fetch -/

/-- R102: past 0xFFE the lowest address a fetch cannot read is PC + 1 for PC = 0xFFF, and PC above that. -/
theorem rangeError_fetch (h : 0xFFF ≤ s.pc.toNat) :
    rangeError s.pc.toNat 2 = some (if s.pc = 0xFFF then s.pc.toNat + 1 else s.pc.toNat) := by
  rw [rangeError_eq_some_iff]
  split
  · next hpc => rw [hpc]; decide
  · next hpc =>
    have hne : s.pc.toNat ≠ 0xFFF := fun he => hpc (BitVec.eq_of_toNat_eq he)
    omega

/-- R102, R262: a step that cannot fetch changes the mode alone, before the host acts. -/
theorem step_of_fetch_error {addr : Nat} (hm : s.mode = .running) (hq : s.quitIn = false)
    (h : rangeError s.pc.toNat 2 = some addr) :
    step s = .next (s.atPhase2.halt (.error (.boundsError .fetch s.pc none addr))).hostActs :=
  step_of_execute hm hq (execute_of_fetch_error (s := s.atPhase2) h)

/-- R261: FETCH and REG_RANGE are no causes of an instruction. -/
theorem errorOf_kind_ne {k : BoundsKind} {n : Nat} (h : errorOf i s = some (k, n)) : k ≠ .fetch ∧ k ≠ .regRange := by
  cases i with
  | callAddr | ret | skp | sknp | drw | ldBVx | ldMemVx | ldVxMem =>
    simp only [errorOf, Option.ite_none_right_eq_some, Option.some.injEq, Prod.mk.injEq] at h
    obtain ⟨-, rfl, -⟩ := h
    simp
  | _ => cases h

theorem exec_ne_fetchError (hm : s.mode = .running) (h : exec i s = .next t) (pc : Word) (word : Option Word)
    (info : Nat) : t.mode ≠ .halted (.error (.boundsError .fetch pc word info)) := by
  rcases exec_cases h with ⟨k, n, hcause, rfl⟩ | ⟨-, hmode, -⟩ | ⟨-, x, -, -, rfl⟩
  · simp [(errorOf_kind_ne hcause).1]
  · simp [hmode, hm]
  · simp

/-- A FETCH error ends phase 2 only where the two bytes at PC are not both in memory. -/
theorem fetch_out_of_range_of_execute {pc : Word} {word : Option Word} {info : Nat} (hm : s.mode = .running)
    (h : execute s = .next t) (ht : t.mode = .halted (.error (.boundsError .fetch pc word info))) :
    Config.memSize < s.pc.toNat + 2 := by
  rcases execute_cases h with ⟨_, hr, -⟩ | ⟨-, -, rfl⟩ | ⟨-, i, -, hexec⟩
  · exact ((rangeError_eq_some_iff _ _ _).1 hr).1.2
  · simp at ht
  · exact absurd ht (exec_ne_fetchError hm hexec pc word info)

/-- Settles O7: the fetch checks its two bytes before it reads them, and nothing else raises FETCH. -/
theorem fetchRaisesPastTheEnd : Obligations.FetchRaisesPastTheEnd := by
  refine ⟨?_, fetchWord_toNat, ?_⟩
  · intro s hm hq hpc
    exact ⟨_, step_of_fetch_error hm hq (rangeError_fetch hpc), programStateSame_atPhase2_halt s _, rfl⟩
  · intro s t hm hpc hstep pc word info ht
    obtain ⟨u, rfl, hu⟩ := step_cases hstep
    rcases hu with ⟨-, -, rfl⟩ | ⟨-, -, v, hv, rfl⟩ | ⟨-, x, k, -, -, rfl⟩ | ⟨-, x, -, -, rfl⟩
    · simp at ht
    · rw [State.hostActs_mode, finishCycle_mode] at ht
      have : 4096 < s.pc.toNat + 2 := fetch_out_of_range_of_execute (s := s.atPhase2) hm hv ht
      omega
    · simp at ht
    · simp [hm] at ht

/-! ### The timers -/

/-- R230, R232: what the end of a cycle does to the timers, as numbers. -/
theorem endCycle_timers (s : State) :
    s.endCycle.dt.toNat = s.dt.toNat - 1 ∧ s.endCycle.st.toNat = s.st.toNat - 1 ∧
      (s.endCycle.soundReq = true ↔ s.st.toNat = 1) :=
  ⟨tick_toNat s.dt, tick_toNat s.st, beq_one_iff_toNat s.st⟩

/-- Settles O12: a tick is `endCycle`, which follows an instruction that completed and a wait iteration that found a key. -/
theorem timersTickOncePerCompletedCycle : Obligations.TimersTickOncePerCompletedCycle := by
  intro s t hstep hq
  refine ⟨fun u hm hu => ?_, fun x hm => ?_⟩
  · cases (step_of_execute hm hq hu).symm.trans hstep
    refine ⟨fun hrun => ?_, fun hstop => ?_⟩
    · rw [finishCycle_running hrun]
      exact endCycle_timers u
    · obtain ⟨-, -, -, -, -, -, ⟨-, -, -, hsound, -⟩, -⟩ := execute_onlyMode (s := s.atPhase2) hm hu hstop
      rw [finishCycle_of_not_running hstop]
      exact ⟨rfl, rfl, hsound⟩
  · cases hk : s.atPhase2.lowestKey with
    | some k =>
      cases (step_of_key hm hq hk).symm.trans hstep
      exact ⟨fun _ => endCycle_timers (s.atPhase2.takeKey x k).resume, fun hstop => absurd rfl hstop⟩
    | none =>
      cases (step_of_no_key hm hq hk).symm.trans hstep
      exact ⟨fun hrun => by simp [hm] at hrun, fun _ => ⟨rfl, rfl, rfl⟩⟩

/-! ### The present request -/

/-- The instructions that draw from `s` (R203, R205): CLS, and a DRW whose sprite is in memory. -/
def Draws (i : Instr) (s : State) : Prop := (∃ u, i = .cls u) ∨ ∃ x y n, i = .drw x y n ∧ DrawInRange s n

/-- R52, R204: the range of a DRW is the one its handler checks. -/
theorem drawInRange_iff {n : Nibble} : DrawInRange s n ↔ rangeError s.base n.toNat = none :=
  (rangeError_eq_none_iff _ _).symm

/-- R30, R203, R205: from a clean flag, exactly the instructions that draw leave it dirty. -/
theorem exec_dirty_iff (hclean : s.dirty = false) (h : exec i s = .next t) : t.dirty = true ↔ Draws i s := by
  constructor
  · intro hdirty
    have hnone : errorOf i s = none := by
      rcases exec_cases h with ⟨k, n, -, rfl⟩ | ⟨hnone, -⟩ | ⟨hnone, -⟩
      · simp [hclean] at hdirty
      · exact hnone
      · exact hnone
    cases exec_effect h with
    | clears u => exact .inl ⟨u, rfl⟩
    | draws x y n =>
      rw [errorOf_drw, Option.map_eq_none_iff] at hnone
      exact .inr ⟨x, y, n, rfl, drawInRange_iff.2 hnone⟩
    | _ => simp [hclean] at hdirty
  · rintro (⟨u, rfl⟩ | ⟨x, y, n, rfl, hrange⟩)
    · cases h; rfl
    · cases (exec_drw_draw s x y n (drawInRange_iff.1 hrange)).symm.trans h; rfl

/-- Phase 2 leaves the flag dirty exactly when it fetched an instruction that draws. -/
theorem execute_dirty_iff (hclean : s.dirty = false) (h : execute s = .next t) :
    t.dirty = true ↔ s.pc.toNat + 2 ≤ Config.memSize ∧ ∃ i, decode s.cfg s.fetchWord = .ok i ∧ Draws i s := by
  rcases execute_cases h with ⟨_, hr, rfl⟩ | ⟨-, ⟨r, hr⟩, rfl⟩ | ⟨hf, i, hd, hexec⟩
  · have := ((rangeError_eq_some_iff _ _ _).1 hr).1.2
    simp only [State.halt_dirty, hclean, Bool.false_eq_true, Config.memSize, false_iff, not_and]
    omega
  · simp [hclean, hr]
  · rw [exec_dirty_iff hclean hexec]
    simp [hd, hf]

/-- R106: after an outer cycle the flag is clean, and what phase 2 left in it is the request. -/
theorem finishCycle_present (hm : s.mode = .running) (hclean : s.dirty = false) (hreq : s.presentReq = false)
    (h : execute s = .next t) : t.finishCycle.dirty = false ∧ t.finishCycle.presentReq = t.dirty := by
  by_cases hrun : t.mode = .running
  · rw [finishCycle_running hrun]
    exact ⟨rfl, rfl⟩
  · obtain ⟨-, -, -, -, -, ⟨-, hdirty⟩, ⟨-, -, hpresent, -⟩, -⟩ := execute_onlyMode hm h hrun
    rw [finishCycle_of_not_running hrun, hpresent, hdirty, hclean, hreq]
    exact ⟨rfl, rfl⟩

theorem exists_ok_draws_iff {ε : Type} {r : Except ε Instr} :
    (∃ i, r = .ok i ∧ Draws i s) ↔
      (∃ u, r = .ok (.cls u)) ∨ ∃ x y n, r = .ok (.drw x y n) ∧ DrawInRange s n := by
  constructor
  · rintro ⟨i, rfl, ⟨u, rfl⟩ | ⟨x, y, n, rfl, hrange⟩⟩
    · exact .inl ⟨u, rfl⟩
    · exact .inr ⟨x, y, n, rfl, hrange⟩
  · rintro (⟨u, rfl⟩ | ⟨x, y, n, rfl, hrange⟩)
    · exact ⟨_, rfl, .inl ⟨u, rfl⟩⟩
    · exact ⟨_, rfl, .inr ⟨x, y, n, rfl, hrange⟩⟩

/-- Settles O13: only an outer cycle can raise the request, by what phase 2 left in the flag. -/
theorem presentRequestFollowsDrawing : Obligations.PresentRequestFollowsDrawing := by
  intro s t hstep hclean
  obtain ⟨u, rfl, hu⟩ := step_cases hstep
  rcases hu with ⟨hq, -, rfl⟩ | ⟨hq, hm, v, hv, rfl⟩ | ⟨-, x, k, hm, -, rfl⟩ | ⟨-, x, hm, -, rfl⟩
  · simp [hclean, hq]
  · obtain ⟨hdirty, hpresent⟩ := finishCycle_present (s := s.atPhase2) hm hclean rfl hv
    refine ⟨hdirty, ?_⟩
    rw [State.hostActs_presentReq, hpresent, execute_dirty_iff (s := s.atPhase2) hclean hv, exists_ok_draws_iff]
    simp only [hm, hq, true_and]
    rfl
  · simp [hm, State.atPhase2, hclean]
  · simp [hm, State.atPhase2, hclean]

/-! ### PC -/

theorem pc_add_two_toNat (h : s.pc.toNat ≤ 0xFFE) : (s.pc + 2).toNat = s.pc.toNat + 2 := by
  bv_omega

theorem pc_add_four_toNat (h : s.pc.toNat ≤ 0xFFE) : (s.pc + 4).toNat = s.pc.toNat + 4 := by
  bv_omega

theorem zextAddr_toNat (nnn : Addr12) : (zextAddr nnn).toNat = nnn.toNat :=
  BitVec.toNat_setWidth_of_le (by decide)

/-- R171, D18: the target of JP V0, addr is the exact sum. -/
theorem jpV0_target_toNat (nnn : Addr12) (b : Byte) : (zextAddr nnn + zextByte b).toNat = nnn.toNat + b.toNat := by
  have := nnn.isLt
  have := b.isLt
  simp only [zextAddr, zextByte, BitVec.toNat_add, BitVec.toNat_setWidth]
  omega

/-- R104: the advance of a skip that was fetched. -/
theorem skipIf_pc_toNat_of_fetch (c : Bool) (h : s.pc.toNat ≤ 0xFFE) :
    (s.skipIf c).pc.toNat = if c then s.pc.toNat + 4 else s.pc.toNat + 2 := by
  cases c with
  | true => exact pc_add_four_toNat h
  | false => exact pc_add_two_toNat h

/-- R172: CALL has no cause of an error exactly when a slot is free. -/
theorem errorOf_callAddr_eq_none_iff {nnn : Addr12} : errorOf (.callAddr nnn) s = none ↔ s.sp.val < Config.stackDepth := by
  have := s.sp.isLt
  simp only [errorOf, ite_eq_right_iff, reduceCtorEq, imp_false, Config.stackDepth]
  omega

/-- R173: RET has none exactly when a slot is in use. -/
theorem errorOf_ret_eq_none_iff {u : Nibble} : errorOf (.ret u) s = none ↔ 0 < s.sp.val := by
  simp [errorOf, Nat.pos_iff_ne_zero]

/-- R104: the instruction that completes goes where its row of the table says, without wrapping. -/
theorem exec_pc_of_completes (hpc : s.pc.toNat ≤ 0xFFE) (hnone : errorOf i s = none) (h : exec i s = .next t)
    (hrun : t.mode = .running) : t.pc.toNat = pcAfter i s := by
  have hadvance : (s.pc + 2).toNat = s.pc.toNat + 2 := pc_add_two_toNat hpc
  cases i with
  | seByte | sneByte | seReg | sneReg | skp | sknp =>
    obtain ⟨c, hexec, hafter⟩ := exec_skip rfl hnone
    cases hexec.symm.trans h
    rw [hafter]
    exact skipIf_pc_toNat_of_fetch c hpc
  | jpAddr nnn => cases h; exact zextAddr_toNat nnn
  | jpV0 nnn => cases h; exact jpV0_target_toNat nnn _
  | callAddr nnn =>
    cases (exec_callAddr_push s nnn (errorOf_callAddr_eq_none_iff.1 hnone)).symm.trans h
    exact zextAddr_toNat nnn
  | ret u =>
    have hsp : 0 < s.sp.val := errorOf_ret_eq_none_iff.1 hnone
    have hslot : s.sp.val - 1 < 16 := by omega
    cases (exec_ret_pop s u hsp).symm.trans h
    simp [pcAfter, hslot]
  | drw x y n =>
    rw [errorOf_drw, Option.map_eq_none_iff] at hnone
    cases (exec_drw_draw s x y n hnone).symm.trans h
    exact hadvance
  | ldBVx x =>
    rw [errorOf_ldBVx, Option.map_eq_none_iff] at hnone
    cases (exec_ldBVx_store s x hnone).symm.trans h
    simpa [pcAfter] using hadvance
  | ldMemVx x =>
    rw [errorOf_ldMemVx, Option.map_eq_none_iff] at hnone
    cases (exec_ldMemVx_store s x hnone).symm.trans h
    simpa [pcAfter] using hadvance
  | ldVxMem x =>
    rw [errorOf_ldVxMem, Option.map_eq_none_iff] at hnone
    cases (exec_ldVxMem_load s x hnone).symm.trans h
    simpa [pcAfter] using hadvance
  | ldVxK x =>
    cases hk : s.lowestKey with
    | some k =>
      cases (exec_ldVxK_take s x k hk).symm.trans h
      exact hadvance
    | none =>
      cases (exec_ldVxK_wait s x hk).symm.trans h
      cases hrun
  | _ => cases h; exact hadvance

/-- Settles O21: an instruction in `Running` has no cause of the table, and its row gives its PC; any other wrote the mode
alone. -/
theorem pcAdvancesByTheTable : Obligations.PcAdvancesByTheTable := by
  intro i s t hm hpc h
  refine ⟨fun hrun => ?_, fun hstop => ?_⟩
  · rcases exec_cases h with ⟨k, n, -, rfl⟩ | ⟨hnone, -⟩ | ⟨-, x, -, -, rfl⟩
    · cases hrun
    · exact exec_pc_of_completes hpc hnone h hrun
    · cases hrun
  · obtain ⟨-, -, -, -, -, -, -, hsame⟩ := exec_onlyMode hm h hstop
    exact hsame

end Sys2Proof.Machine

/-! ### Arithmetic, logic and moves

The instructions of these rules have three endings: a register and the advance, a result with its flag and the advance, or I
and the advance. Each ending is stated once, as what `exec` answers; a rule then says which value its instruction computes. -/

namespace Sys2Proof.Machine

variable {i : Instr} {s : State} {x y : Reg}

/-! ### The word of an instruction -/

/-- R79: the fixed bits and the operand bits add up, for they never overlap. -/
theorem encode_toNat (i : Instr) : (encode i).toNat = i.opRow.pattern + i.operandBits := (Laws.FixedBits.all i).2

/-- The word of an instruction with a register and an immediate (R72). -/
theorem encode_toNat_of_x_kk {c : Nat} {kk : Byte} (hrow : i.opRow = .family c)
    (hbits : i.operandBits = x.val * 0x100 + kk.toNat) :
    (encode i).toNat = c * 0x1000 + x.val * 0x100 + kk.toNat := by
  rw [encode_toNat, hrow, hbits, pattern_family, Nat.add_assoc]

/-- The word of an instruction with two registers, selected by its lowest nibble (R72, R78). -/
theorem encode_toNat_of_x_y {c n : Nat} (hrow : i.opRow = .byNibble c n)
    (hbits : i.operandBits = x.val * 0x100 + y.val * 0x10) :
    (encode i).toNat = c * 0x1000 + n + x.val * 0x100 + y.val * 0x10 := by
  rw [encode_toNat, hrow, hbits, pattern_byNibble, Nat.add_assoc (c * 0x1000 + n)]

/-! ### The three endings -/

/-- An instruction that ends in a write of `V[x]` and the advance. -/
theorem exec_result_of_setReg {b : Byte} (h : exec i s = .next (s.setReg x b).advance) :
    ∃ t, exec i s = .next t ∧ t.reg x = b ∧ t.pc = s.pc + 2 ∧ OnlyRegs [x] s t :=
  ⟨_, h, s.reg_setReg_same x b, rfl, onlyRegs_setReg s x b⟩

/-- R130: an instruction that ends in a result, its flag and the advance; for x = F the flag wins. -/
theorem exec_result_of_setResultFlag {b : Byte} {f : Bool} (h : exec i s = .next (s.setResultFlag x b f).advance) :
    ∃ t, exec i s = .next t ∧ t.pc = s.pc + 2 ∧ OnlyRegs [x, Reg.vF] s t ∧ (x ≠ Reg.vF → t.reg x = b) ∧
      t.reg Reg.vF = flagByte f := by
  refine ⟨_, h, rfl, onlyRegs_setResultFlag s x b f, fun hx => ?_, ?_⟩
  · simp [hx.symm]
  · simp

/-- An instruction that ends in a write of I and the advance. -/
theorem exec_result_of_setI {w : Word} (h : exec i s = .next (s.setI w).advance) :
    ∃ t, exec i s = .next t ∧ t.i = w ∧ t.pc = s.pc + 2 ∧ OnlyIndex s t :=
  ⟨_, h, rfl, rfl, onlyIndex_setI s w⟩

/-! ### The values computed -/

theorem byte_sub_toNat (a b : Byte) : (a - b).toNat = (a.toNat + 256 - b.toNat) % 256 := by
  have := b.isLt
  rw [BitVec.toNat_sub]
  omega

/-- R137: the carry as VF holds it. -/
theorem flagByte_carryOut (a b : Byte) : flagByte (carryOut a b) = if a.toNat + b.toNat > 255 then 1 else 0 := by
  simp [flagByte, carryOut]

/-- R138: no borrow as VF holds it. -/
theorem flagByte_noBorrow (a b : Byte) : flagByte (noBorrow a b) = if a.toNat ≥ b.toNat then 1 else 0 := by
  simp [flagByte, noBorrow]

/-- R139: the bit shifted out on the right is the remainder of the halving. -/
theorem flagByte_lowBit_toNat (a : Byte) : (flagByte (lowBit a)).toNat = a.toNat % 2 := by
  rw [lowBit, BitVec.getLsbD, Nat.testBit_zero]
  rcases Nat.mod_two_eq_zero_or_one a.toNat with h | h <;> simp [flagByte, h]

/-- R140: the bit shifted out on the left is the overflow of the doubling. -/
theorem flagByte_highBit_toNat (a : Byte) : (flagByte (highBit a)).toNat = a.toNat / 128 := by
  have hlt := a.isLt
  have hbit : highBit a = decide (128 ≤ a.toNat) := BitVec.msb_eq_decide a
  by_cases h : 128 ≤ a.toNat
  · rw [hbit, decide_eq_true h, show a.toNat / 128 = 1 by omega]; rfl
  · rw [hbit, decide_eq_false h, show a.toNat / 128 = 0 by omega]; rfl

theorem byte_shiftRight_one_toNat (a : Byte) : (a >>> 1).toNat = a.toNat / 2 := by
  rw [BitVec.toNat_ushiftRight, Nat.shiftRight_one]

theorem byte_shiftLeft_one_toNat (a : Byte) : (a <<< 1).toNat = 2 * a.toNat % 256 := by
  rw [BitVec.toNat_shiftLeft, Nat.shiftLeft_eq, Nat.mul_comm]

/-- R139, R140: the source of a shift as a number. -/
theorem shiftSource_toNat (s : State) (x y : Reg) :
    (s.shiftSource x y).toNat = if s.cfg.shiftUsesVy then (s.reg y).toNat else (s.reg x).toNat :=
  apply_ite BitVec.toNat _ _ _

/-- R147: I and a register add at 16 bits. -/
theorem add_zextByte_toNat (w : Word) (b : Byte) : (w + zextByte b).toNat = (w.toNat + b.toNat) % 65536 := by
  rw [BitVec.toNat_add, zextByte, BitVec.toNat_setWidth_of_le (by decide)]

/-- R206: `FONT_BASE` is below 433, so a glyph address never wraps. -/
theorem glyphAddress_toNat (cfg : Config) (digit : Byte) :
    (glyphAddress cfg digit).toNat = cfg.fontBase.val + 5 * digit.toNat := by
  have := cfg.fontBase.isLt
  have := digit.isLt
  exact Nat.mod_eq_of_lt (by omega)

/-! ### The obligations -/

/-- Settles O22: the one register write is the immediate. -/
theorem loadImmediateResult : Obligations.LoadImmediateResult := fun _ _ _ =>
  ⟨encode_toNat_of_x_kk (c := 0x6) rfl rfl, exec_result_of_setReg rfl⟩

/-- Settles O23: the sum at 8 bits is the sum mod 256, and no flag is written. -/
theorem addImmediateSetsNoFlag : Obligations.AddImmediateSetsNoFlag := by
  intro x kk s
  refine ⟨encode_toNat_of_x_kk (c := 0x7) rfl rfl, ?_⟩
  obtain ⟨t, hexec, hreg, hpc, hframe⟩ := exec_result_of_setReg (i := .addByte x kk) (s := s) rfl
  exact ⟨t, hexec, hreg ▸ BitVec.toNat_add _ _, hpc, hframe⟩

/-- Settles O24: the one register write is the other register's value. -/
theorem registerCopyResult : Obligations.RegisterCopyResult := fun _ _ _ =>
  ⟨encode_toNat_of_x_y (c := 0x8) (n := 0x0) rfl rfl, exec_result_of_setReg rfl⟩

/-- Settles O25: each is one register write, and the operations on bytes are bitwise. -/
theorem logicResults : Obligations.LogicResults := by
  intro x y s
  refine ⟨?_, ?_, ?_⟩
  · obtain ⟨t, hexec, hreg, hpc, hframe⟩ := exec_result_of_setReg (i := .orReg x y) (s := s) rfl
    exact ⟨t, hexec, hpc, hframe, fun k => hreg ▸ BitVec.getLsbD_or⟩
  · obtain ⟨t, hexec, hreg, hpc, hframe⟩ := exec_result_of_setReg (i := .andReg x y) (s := s) rfl
    exact ⟨t, hexec, hpc, hframe, fun k => hreg ▸ BitVec.getLsbD_and⟩
  · obtain ⟨t, hexec, hreg, hpc, hframe⟩ := exec_result_of_setReg (i := .xorReg x y) (s := s) rfl
    exact ⟨t, hexec, hpc, hframe, fun k => hreg ▸ BitVec.getLsbD_xor⟩

/-- Settles O26: the sum, then the carry of the old operands to VF. -/
theorem addWithCarryResult : Obligations.AddWithCarryResult := by
  intro x y s
  refine ⟨encode_toNat_of_x_y (c := 0x8) (n := 0x4) rfl rfl, ?_⟩
  obtain ⟨t, hexec, hpc, hframe, hreg, hflag⟩ := exec_result_of_setResultFlag (i := .addReg x y) (s := s) rfl
  exact ⟨t, hexec, hpc, hframe, fun hx => hreg hx ▸ BitVec.toNat_add _ _, hflag ▸ flagByte_carryOut _ _⟩

/-- Settles O27: the difference, then the borrow of the old operands to VF. -/
theorem subtractWithBorrowResult : Obligations.SubtractWithBorrowResult := by
  intro x y s
  refine ⟨encode_toNat_of_x_y (c := 0x8) (n := 0x5) rfl rfl, ?_⟩
  obtain ⟨t, hexec, hpc, hframe, hreg, hflag⟩ := exec_result_of_setResultFlag (i := .subReg x y) (s := s) rfl
  exact ⟨t, hexec, hpc, hframe, fun hx => hreg hx ▸ byte_sub_toNat _ _, hflag ▸ flagByte_noBorrow _ _⟩

/-- Settles O28: SUB with its operands exchanged. -/
theorem reverseSubtractResult : Obligations.ReverseSubtractResult := by
  intro x y s
  obtain ⟨t, hexec, hpc, hframe, hreg, hflag⟩ := exec_result_of_setResultFlag (i := .subnReg x y) (s := s) rfl
  exact ⟨t, hexec, hpc, hframe, fun hx => hreg hx ▸ byte_sub_toNat _ _, hflag ▸ flagByte_noBorrow _ _⟩

/-- Settles O29: a shift by one is a halving or a doubling, and the bit shifted out is what it loses. -/
theorem shiftResults : Obligations.ShiftResults := by
  intro x y s a ha
  obtain rfl : a = (s.shiftSource x y).toNat := ha.trans (shiftSource_toNat s x y).symm
  constructor
  · obtain ⟨t, hexec, hpc, hframe, hreg, hflag⟩ := exec_result_of_setResultFlag (i := .shrReg x y) (s := s) rfl
    exact ⟨t, hexec, hpc, hframe, fun hx => hreg hx ▸ byte_shiftRight_one_toNat _, hflag ▸ flagByte_lowBit_toNat _⟩
  · obtain ⟨t, hexec, hpc, hframe, hreg, hflag⟩ := exec_result_of_setResultFlag (i := .shlReg x y) (s := s) rfl
    exact ⟨t, hexec, hpc, hframe, fun hx => hreg hx ▸ byte_shiftLeft_one_toNat _, hflag ▸ flagByte_highBit_toNat _⟩

/-- Settles O30: the one register write is the masked input. -/
theorem randomByteIsMasked : Obligations.RandomByteIsMasked := by
  intro x kk s
  obtain ⟨t, hexec, hreg, hpc, hframe⟩ := exec_result_of_setReg (i := .rnd x kk) (s := s) rfl
  refine ⟨t, hexec, hpc, hframe, fun k => hreg ▸ BitVec.getLsbD_and, ?_, ?_⟩
  · rintro rfl
    exact hreg.trans BitVec.and_zero
  · rintro rfl
    exact hreg.trans BitVec.and_allOnes

/-- Settles O31: each is one write of I. -/
theorem indexInstructionsResult : Obligations.IndexInstructionsResult := by
  intro s
  refine ⟨fun nnn => ?_, fun x => ?_, fun x => ?_⟩
  · obtain ⟨t, hexec, hi, hpc, hframe⟩ := exec_result_of_setI (i := .ldI nnn) (s := s) rfl
    exact ⟨t, hexec, hi ▸ zextAddr_toNat nnn, hpc, hframe⟩
  · obtain ⟨t, hexec, hi, hpc, hframe⟩ := exec_result_of_setI (i := .addIVx x) (s := s) rfl
    exact ⟨t, hexec, hi ▸ add_zextByte_toNat _ _, hpc, hframe⟩
  · obtain ⟨t, hexec, hi, hpc, hframe⟩ := exec_result_of_setI (i := .ldFVx x) (s := s) rfl
    exact ⟨t, hexec, hi ▸ glyphAddress_toNat _ _, hpc, hframe⟩

end Sys2Proof.Machine

/-! ### Memory instructions, the dead REG_RANGE check, and the random input -/

namespace Sys2Proof.Machine

variable {i : Instr} {s t : State} {x : Reg}

/-! ### Both sides of the range check -/

/-- R262: an instruction with a cause in the table of R261 answers the entry into `Halted`, with the record of that cause. -/
theorem exec_result_of_errorOf_some {k : BoundsKind} {n : Nat} (h : errorOf i s = some (k, n)) :
    ∃ t, exec i s = .next t ∧ OnlyMode s t ∧ t.mode = .halted (.error (.boundsError k s.pc (some (encode i)) n)) :=
  ⟨_, exec_of_errorOf_some h, onlyMode_halt s _, rfl⟩

theorem rangeError_block_eq_none (h : s.i.toNat + (x.val + 1) ≤ 4096) : rangeError s.base (blockLength x) = none :=
  (rangeError_eq_none_iff _ _).2 (.inr h)

/-- R142, R143 (D9): I after a block access, as a number. -/
theorem bumpI_i_toNat (s : State) (x : Reg) :
    (s.bumpI x).i.toNat =
      if s.cfg.loadStoreIncrementsI then (s.i.toNat + x.val + 1) % 65536 else s.i.toNat := by
  rw [State.bumpI_i, apply_ite BitVec.toNat, BitVec.toNat_add, BitVec.toNat_ofNat, Nat.add_mod_mod]
  rfl

/-- R143: after a LD Vx, [I] inside memory, register `z` of the block holds the byte at I + `z`. -/
theorem exec_ldVxMem_reg (hfits : s.i.toNat + (x.val + 1) ≤ 4096) (hexec : exec (.ldVxMem x) s = .next t) (z : Reg)
    (hz : z ≤ x) : t.reg z = s.readByte (s.i.toNat + z.val) := by
  cases (exec_ldVxMem_load s x (rangeError_block_eq_none hfits)).symm.trans hexec
  rw [State.advance_reg, State.bumpI_reg, State.reg_loadBlock, if_pos (Fin.le_def.1 hz)]
  rfl

/-! ### The BCD digits -/

/-- R141: the three digits of a byte, where a store at `a` puts them. -/
theorem readByte_writeBytes_bcdDigits (s : State) (a : Nat) (b : Byte) :
    ((s.writeBytes a (bcdDigits b)).readByte a).toNat = b.toNat / 100 ∧
    ((s.writeBytes a (bcdDigits b)).readByte (a + 1)).toNat = b.toNat / 10 % 10 ∧
    ((s.writeBytes a (bcdDigits b)).readByte (a + 2)).toNat = b.toNat % 10 := by
  have hb := b.isLt
  refine ⟨?_, ?_, ?_⟩
  · rw [← Nat.add_zero a, s.readByte_writeBytes_at (a + 0) 0 _ (by simp [bcdDigits])]
    exact Nat.mod_eq_of_lt (by omega)
  · rw [s.readByte_writeBytes_at a 1 _ (by simp [bcdDigits])]
    exact Nat.mod_eq_of_lt (by omega)
  · rw [s.readByte_writeBytes_at a 2 _ (by simp [bcdDigits])]
    exact Nat.mod_eq_of_lt (by omega)

/-! ### The obligations on stores and loads -/

/-- Settles O32: the digits lie where the block write puts them; past the end of memory the cause table raises. -/
theorem bcdStoreResult : Obligations.BcdStoreResult := by
  refine fun x s => ⟨fun hfits => ?_, fun hpast => exec_result_of_errorOf_some (if_pos hpast)⟩
  have hrange : rangeError s.base 3 = none := (rangeError_eq_none_iff _ _).2 (.inr hfits)
  obtain ⟨hhundreds, htens, hunits⟩ := readByte_writeBytes_bcdDigits s s.i.toNat (s.reg x)
  refine ⟨_, exec_ldBVx_store s x hrange, by simp, by simp, ?_⟩
  simp only [State.advance_readByte, State.base, hhundreds, htens, hunits]
  refine ⟨by omega, Nat.mod_lt _ (by decide), Nat.mod_lt _ (by decide), fun a ha => ?_, ?_⟩
  · exact s.readByte_writeBytes_outside _ _ (bcdDigits (s.reg x)) ha
  · simp [SameRegs, SameIndex, SameStack, SameTimers, SameDisplay, SameHost]

/-- Settles O33: the registers lie where the block write puts them; past the end of memory the cause table raises. -/
theorem blockStoreResult : Obligations.BlockStoreResult := by
  refine fun x s => ⟨fun hfits => ?_, fun hpast => exec_result_of_errorOf_some (if_pos hpast)⟩
  have hexec := exec_ldMemVx_store s x (rangeError_block_eq_none hfits)
  refine ⟨_, hexec, by simp, by simp, exec_ldMemVx_readByte hfits hexec, ?_, fun a ha => ?_, ?_⟩
  · rw [State.advance_i, bumpI_i_toNat, State.writeBytes_cfg, State.writeBytes_i]
  · rw [State.advance_readByte, State.bumpI_readByte]
    exact s.readByte_writeBytes_outside _ _ _ (by rwa [length_regBlock])
  · simp [SameRegs, SameStack, SameTimers, SameDisplay, SameHost]

/-- Settles O34: the block load reads the block and keeps the rest; past the end of memory the cause table raises. -/
theorem blockLoadResult : Obligations.BlockLoadResult := by
  refine fun x s => ⟨fun hfits => ?_, fun hpast => exec_result_of_errorOf_some (if_pos hpast)⟩
  have hexec := exec_ldVxMem_load s x (rangeError_block_eq_none hfits)
  refine ⟨_, hexec, by simp, by simp, exec_ldVxMem_reg hfits hexec, fun z hz => ?_, ?_, ?_⟩
  · rw [State.advance_reg, State.bumpI_reg, State.reg_loadBlock, if_neg (not_le.2 (Fin.lt_def.1 hz))]
  · rw [State.advance_i, bumpI_i_toNat, State.loadBlock_cfg, State.loadBlock_i]
  · simp [SameMemory, SameStack, SameTimers, SameDisplay, SameHost]

/-- Settles O35: the load reads the bytes that the store wrote. -/
theorem blockStoreThenLoadRestores : Obligations.BlockStoreThenLoadRestores := by
  intro x s t u v hfits hstore hi hmem hload z hz
  calc v.reg z = u.readByte (u.i.toNat + z.val) := exec_ldVxMem_reg (hi ▸ hfits) hload z hz
    _ = t.readByte (s.i.toNat + z.val) := by rw [hi, hmem]
    _ = s.reg z := exec_ldMemVx_readByte hfits hstore z hz

/-! ### REG_RANGE -/

/-- R152: no instruction raises REG_RANGE, for the cause table has no row for it. -/
theorem exec_ne_regRangeError (hm : s.mode = .running) (h : exec i s = .next t) (pc : Word) (word : Option Word)
    (info : Nat) : t.mode ≠ .halted (.error (.boundsError .regRange pc word info)) := by
  rcases exec_cases h with ⟨k, n, hcause, rfl⟩ | ⟨-, hmode, -⟩ | ⟨-, x, -, -, rfl⟩
  · simp [(errorOf_kind_ne hcause).2]
  · simp [hmode, hm]
  · simp

/-- Settles O20: the fetch and the decoder raise other errors, and no instruction raises this one. -/
theorem registerRangeErrorIsNeverRaised : Obligations.RegisterRangeErrorIsNeverRaised := by
  intro s t hstep pc word info
  obtain ⟨u, rfl, hu⟩ := step_cases hstep
  rcases hu with ⟨-, -, rfl⟩ | ⟨-, hm, v, hv, rfl⟩ | ⟨-, x, k, -, -, rfl⟩ | ⟨-, x, hm, -, rfl⟩
  · simp
  · rw [State.hostActs_mode, finishCycle_mode]
    rcases execute_cases hv with ⟨_, -, rfl⟩ | ⟨-, -, rfl⟩ | ⟨-, i, -, hi⟩
    · simp
    · simp
    · exact exec_ne_regRangeError (s := s.atPhase2) hm hi pc word info
  · simp
  · simp [hm]

/-! ### The random input

A run with another `rnd_in` differs in that port alone (`State.withRnd`), until the host acts and replaces the port. -/

/-- `s` with another `rnd_in` at its next step. -/
def State.withRnd (s : State) (b : Byte) : State := { s with rndIn := b }

/-- The host's next inputs do not hang on the last ones, but for `quit_in`. -/
@[simp] theorem hostActs_withRnd (s : State) (b : Byte) : (s.withRnd b).hostActs = s.hostActs := rfl

theorem writeBytes_withRnd (s : State) (b : Byte) (a : Nat) (bs : List Byte) :
    (s.withRnd b).writeBytes a bs = (s.writeBytes a bs).withRnd b := by
  induction bs generalizing s a with
  | nil => rfl
  | cons c rest ih => exact ih (s.writeByte a c) (a + 1)

theorem readBytes_withRnd (s : State) (b : Byte) (a n : Nat) : (s.withRnd b).readBytes a n = s.readBytes a n := by
  induction n generalizing a with
  | zero => rfl
  | succ n ih => exact congrArg (s.readByte a :: ·) (ih (a + 1))

theorem bumpI_withRnd (s : State) (b : Byte) (x : Reg) : (s.withRnd b).bumpI x = (s.bumpI x).withRnd b :=
  (apply_ite (State.withRnd · b) _ (s.setI (s.i + BitVec.ofNat 16 (blockLength x))) s).symm

theorem loadBlock_withRnd (s : State) (b : Byte) (a : Nat) (x : Reg) :
    (s.withRnd b).loadBlock a x = (s.loadBlock a x).withRnd b := rfl

/-- R144: an instruction that is no RND does the same whatever `rnd_in` is. -/
theorem exec_withRnd (hi : ∀ x kk, i ≠ .rnd x kk) (s : State) (b : Byte) :
    exec i (s.withRnd b) = mapNext (State.withRnd · b) (exec i s) := by
  cases he : errorOf i s with
  | some cause =>
    rw [exec_of_errorOf_some he, exec_of_errorOf_some (s := s.withRnd b) he]
    rfl
  | none =>
    cases i with
    | rnd x kk => exact absurd rfl (hi x kk)
    | callAddr nnn =>
      have hsp := errorOf_callAddr_eq_none_iff.1 he
      rw [exec_callAddr_push s nnn hsp, exec_callAddr_push (s.withRnd b) nnn hsp]
      rfl
    | ret u =>
      have hsp := errorOf_ret_eq_none_iff.1 he
      rw [exec_ret_pop s u hsp, exec_ret_pop (s.withRnd b) u hsp]
      rfl
    | skp x =>
      have hkey : (s.reg x).toNat < 16 := by simpa [errorOf, Nat.lt_succ_iff] using he
      rw [exec_skp_key s x hkey, exec_skp_key (s.withRnd b) x hkey]
      rfl
    | sknp x =>
      have hkey : (s.reg x).toNat < 16 := by simpa [errorOf, Nat.lt_succ_iff] using he
      rw [exec_sknp_key s x hkey, exec_sknp_key (s.withRnd b) x hkey]
      rfl
    | ldVxK x =>
      cases hk : s.lowestKey with
      | some k =>
        rw [exec_ldVxK_take s x k hk, exec_ldVxK_take (s.withRnd b) x k hk]
        rfl
      | none =>
        rw [exec_ldVxK_wait s x hk, exec_ldVxK_wait (s.withRnd b) x hk]
        rfl
    | drw x y n =>
      rw [errorOf_drw, Option.map_eq_none_iff] at he
      rw [exec_drw_draw s x y n he, exec_drw_draw (s.withRnd b) x y n he, readBytes_withRnd]
      rfl
    | ldBVx x =>
      rw [errorOf_ldBVx, Option.map_eq_none_iff] at he
      rw [exec_ldBVx_store s x he, exec_ldBVx_store (s.withRnd b) x he, writeBytes_withRnd]
      rfl
    | ldMemVx x =>
      rw [errorOf_ldMemVx, Option.map_eq_none_iff] at he
      rw [exec_ldMemVx_store s x he, exec_ldMemVx_store (s.withRnd b) x he, writeBytes_withRnd, bumpI_withRnd]
      rfl
    | ldVxMem x =>
      rw [errorOf_ldVxMem, Option.map_eq_none_iff] at he
      rw [exec_ldVxMem_load s x he, exec_ldVxMem_load (s.withRnd b) x he, loadBlock_withRnd, bumpI_withRnd]
      rfl
    | _ => rfl

/-- Nor does phase 2, when it fetches no RND. -/
theorem execute_withRnd (hd : ∀ x kk, decode s.cfg s.fetchWord ≠ .ok (.rnd x kk)) (b : Byte) :
    execute (s.withRnd b) = mapNext (State.withRnd · b) (execute s) := by
  cases hr : rangeError s.pc.toNat 2 with
  | some addr =>
    rw [execute_of_fetch_error hr, execute_of_fetch_error (s := s.withRnd b) hr]
    rfl
  | none =>
    have hf : s.pc.toNat + 2 ≤ Config.memSize := ((rangeError_eq_none_iff _ _).1 hr).resolve_left (by decide)
    cases hdec : decode s.cfg s.fetchWord with
    | error r =>
      rw [execute_of_illegal hf hdec, execute_of_illegal (s := s.withRnd b) hf hdec]
      rfl
    | ok i =>
      rw [execute_of_decode hf hdec, execute_of_decode (s := s.withRnd b) hf hdec]
      exact exec_withRnd (fun x kk hi => hd x kk (hi ▸ hdec)) s b

theorem finishCycle_withRnd (s : State) (b : Byte) : (s.withRnd b).finishCycle = s.finishCycle.withRnd b := by
  cases hm : s.mode with
  | running => rw [finishCycle_running hm, finishCycle_running (s := s.withRnd b) hm]; rfl
  | awaitingKey x => rw [finishCycle_awaiting hm, finishCycle_awaiting (s := s.withRnd b) hm]
  | halted r => rw [finishCycle_halted hm, finishCycle_halted (s := s.withRnd b) hm]

/-- A quiet outer cycle that fetches no RND. -/
theorem step_withRnd_of_running (hm : s.mode = .running) (hq : s.quitIn = false)
    (hd : ∀ x kk, decode s.cfg s.fetchWord ≠ .ok (.rnd x kk)) (b : Byte) : step (s.withRnd b) = step s := by
  obtain ⟨v, hv⟩ := execute_total s.atPhase2
  have hv' : execute (s.withRnd b).atPhase2 = .next (v.withRnd b) := by
    rw [show (s.withRnd b).atPhase2 = s.atPhase2.withRnd b from rfl, execute_withRnd (s := s.atPhase2) hd, hv,
      mapNext_next]
  rw [step_of_execute hm hq hv, step_of_execute (s := s.withRnd b) hm hq hv', finishCycle_withRnd, hostActs_withRnd]

/-- R243: a wait iteration reads the key latch alone. -/
theorem step_withRnd_of_awaiting (hm : s.mode = .awaitingKey x) (hq : s.quitIn = false) (b : Byte) :
    step (s.withRnd b) = step s := by
  cases hk : s.atPhase2.lowestKey with
  | some k => rw [step_of_key hm hq hk, step_of_key (s := s.withRnd b) hm hq hk]; rfl
  | none => rw [step_of_no_key hm hq hk, step_of_no_key (s := s.withRnd b) hm hq hk]; rfl

theorem step_withRnd_of_quit (hm : s.mode = .running ∨ ∃ x, s.mode = .awaitingKey x) (hq : s.quitIn = true) (b : Byte) :
    step (s.withRnd b) = step s := by
  rw [step_of_quit hq hm, step_of_quit (s := s.withRnd b) hq hm]
  rfl

theorem step_withRnd_of_halted {r : HaltReason} (hm : s.mode = .halted r) (b : Byte) :
    step (s.withRnd b) = step s := by
  cases r with
  | quit => rw [step_halted_quit hm, step_halted_quit (s := s.withRnd b) hm]
  | error e => rw [step_halted_error hm, step_halted_error (s := s.withRnd b) hm]

/-- Settles O57: in every mode the port is all that differs before the host acts, and the host replaces it. -/
theorem randomInputReachesOnlyRnd : Obligations.RandomInputReachesOnlyRnd := by
  intro s b hd
  change step (s.withRnd b) = step s
  cases hm : s.mode with
  | running =>
    cases hq : s.quitIn with
    | true => exact step_withRnd_of_quit (.inl hm) hq b
    | false => exact step_withRnd_of_running hm hq (hd hm) b
  | awaitingKey x =>
    cases hq : s.quitIn with
    | true => exact step_withRnd_of_quit (.inr ⟨x, hm⟩) hq b
    | false => exact step_withRnd_of_awaiting hm hq b
  | halted r => exact step_withRnd_of_halted hm b

end Sys2Proof.Machine

/-! ### Control flow

A jump is one write of PC, a skip an advance by its condition. CALL and RET write the stack beside PC; each is said once as a
step of the machine, and the return to the call is the two steps in a row. -/

namespace Sys2Proof.Machine

variable {i : Instr} {s : State}

/-! ### Jumps -/

/-- Settles O38: each is one write of PC, and neither target wraps. -/
theorem jumpResults : Obligations.JumpResults := fun nnn s =>
  ⟨⟨_, rfl, zextAddr_toNat nnn, onlyPc_setPc s _⟩, ⟨_, rfl, jpV0_target_toNat nnn _, onlyPc_setPc s _⟩⟩

/-! ### Skips -/

/-- R104, R180: an instruction that skips when `p` holds. -/
theorem exec_result_of_skipIf {c : Bool} {p : Prop} [Decidable p] (hc : c = true ↔ p)
    (h : exec i s = .next (s.skipIf c)) :
    ∃ t, exec i s = .next t ∧ OnlyPc s t ∧ t.pc = if p then s.pc + 4 else s.pc + 2 := by
  refine ⟨_, h, onlyPc_setPc s _, ?_⟩
  rw [State.skipIf_pc, apply_ite (s.pc + ·)]
  exact if_congr hc rfl rfl

/-- An instruction that skips when `p` fails. -/
theorem exec_result_of_skipIf_not {c : Bool} {p : Prop} [Decidable p] (hc : c = true ↔ ¬ p)
    (h : exec i s = .next (s.skipIf c)) :
    ∃ t, exec i s = .next t ∧ OnlyPc s t ∧ t.pc = if p then s.pc + 2 else s.pc + 4 := by
  simpa only [ite_not] using exec_result_of_skipIf hc h

/-- Settles O42: SE skips when the register has the immediate's value, SNE when it has not. -/
theorem immediateSkipsResult : Obligations.ImmediateSkipsResult := fun _ _ _ =>
  ⟨encode_toNat_of_x_kk (c := 0x3) rfl rfl, encode_toNat_of_x_kk (c := 0x4) rfl rfl,
    exec_result_of_skipIf beq_iff_eq rfl, exec_result_of_skipIf_not bne_iff_ne rfl⟩

/-- Settles O43: SE skips when the registers agree, SNE when they do not; `exec` does not look at the nibble. -/
theorem registerSkipsResult : Obligations.RegisterSkipsResult := fun _ _ _ _ =>
  ⟨exec_result_of_skipIf beq_iff_eq rfl, exec_result_of_skipIf_not bne_iff_ne rfl⟩

/-- Settles O44: up to 15 the register names a bit of the latch; above, the cause table raises. -/
theorem keySkipsResult : Obligations.KeySkipsResult := by
  refine fun x s => ⟨fun hkey => ?_, fun hpast => ?_⟩
  · have hlt : (s.reg x).toNat < 16 := Nat.lt_succ_of_le hkey
    exact ⟨exec_result_of_skipIf Iff.rfl (exec_skp_key s x hlt),
      exec_result_of_skipIf_not (by simp [State.keyDown]) (exec_sknp_key s x hlt)⟩
  · exact ⟨exec_result_of_errorOf_some (if_pos hpast), exec_result_of_errorOf_some (if_pos hpast)⟩

/-! ### CALL and RET -/

/-- Settles O39: with a slot free, the push and the jump; with none, the cause table raises. -/
theorem callPushesTheReturnAddress : Obligations.CallPushesTheReturnAddress := by
  refine fun nnn s => ⟨fun hsp => ?_, fun hfull => exec_result_of_errorOf_some (by simp [errorOf, hfull])⟩
  refine ⟨_, exec_callAddr_push s nnn hsp, zextAddr_toNat nnn, rfl, ?_, fun j hj => ?_, ?_⟩
  · simp
  · exact Vector.getElem?_set_ne hsp hj.symm
  · simp [SameRegs, SameMemory, SameIndex, SameTimers, SameDisplay, SameHost]

/-- Settles O40: with a slot in use, the pop, which writes no slot; with none, the cause table raises. -/
theorem returnPopsPc : Obligations.ReturnPopsPc := by
  refine fun u s => ⟨fun hsp => ?_, fun hempty => exec_result_of_errorOf_some (by simp [errorOf, hempty])⟩
  have hslot : s.sp.val - 1 < 16 := by omega
  refine ⟨_, exec_ret_pop s u hsp, Vector.getElem?_eq_getElem hslot, Nat.sub_add_cancel hsp, rfl, ?_⟩
  simp [SameRegs, SameMemory, SameIndex, SameTimers, SameDisplay, SameHost]

/-! ### A call and its return -/

@[simp] theorem endCycle_nextInput (s : State) : s.endCycle.nextInput = s.nextInput := rfl

/-- R101, R103: after an instruction that completes, the end of the cycle and the host leave PC, the stack and memory
alone. -/
theorem step_of_completes {v : State} (hm : s.mode = .running) (hq : s.quitIn = false)
    (hf : s.pc.toNat + 2 ≤ Config.memSize) (hd : decode s.cfg s.fetchWord = .ok i)
    (hexec : exec i s.atPhase2 = .next v) (hv : v.mode = .running) :
    ∃ t, step s = .next t ∧ t.mode = .running ∧ t.pc = v.pc ∧ SameStack v t ∧ SameMemory v t ∧ t.cfg = s.cfg ∧
      t.quitIn = s.nextInput.quit := by
  obtain ⟨-, hcfg, -, -, -, hquit, -, hqueue, hcount⟩ := exec_sameHost hexec
  have hstep : step s = .next v.endCycle.hostActs := by
    rw [step_of_execute hm hq ((execute_of_decode (s := s.atPhase2) hf hd).trans hexec), finishCycle_running hv]
  have hnext : v.nextInput = s.nextInput := nextInput_congr hqueue hcount
  refine ⟨_, hstep, ?_, ?_, ⟨?_, ?_⟩, fun a => ?_, ?_, ?_⟩ <;> simp [hv, hcfg, hquit, hq, hnext]

/-- R172: a step that fetches a CALL with a slot free goes on at the target, the return address on the stack. -/
theorem step_of_call {nnn : Addr12} (hm : s.mode = .running) (hq : s.quitIn = false)
    (hf : s.pc.toNat + 2 ≤ Config.memSize) (hd : decode s.cfg s.fetchWord = .ok (.callAddr nnn)) (hsp : s.sp.val < 16) :
    ∃ t, step s = .next t ∧ t.mode = .running ∧ t.pc.toNat = nnn.toNat ∧ t.sp.val = s.sp.val + 1 ∧
      t.stack[s.sp.val]? = some (s.pc + 2) ∧ SameMemory s t ∧ t.cfg = s.cfg ∧ t.quitIn = s.nextInput.quit := by
  obtain ⟨v, hexec, hpc, hpushed, hslot, -, -, hmem, -, -, -, -, hmode⟩ :=
    (callPushesTheReturnAddress nnn s.atPhase2).1 hsp
  obtain ⟨t, hstep, hrun, hpc', ⟨hstack, hsp'⟩, hmem', hcfg, hquit⟩ :=
    step_of_completes hm hq hf hd hexec (hmode.trans hm)
  exact ⟨t, hstep, hrun, hpc' ▸ hpc, hsp' ▸ hpushed, hstack ▸ hslot, fun a => (hmem' a).trans (hmem a), hcfg, hquit⟩

/-- R173: a step that fetches a RET with a slot in use goes on at the address in the top slot. -/
theorem step_of_ret {u : Nibble} (hm : s.mode = .running) (hq : s.quitIn = false)
    (hf : s.pc.toNat + 2 ≤ Config.memSize) (hd : decode s.cfg s.fetchWord = .ok (.ret u)) (hsp : 0 < s.sp.val) :
    ∃ t, step s = .next t ∧ t.mode = .running ∧ s.stack[s.sp.val - 1]? = some t.pc ∧ t.sp.val + 1 = s.sp.val ∧
      t.stack = s.stack := by
  obtain ⟨v, hexec, hpc, hpopped, hkept, -, -, -, -, -, -, hmode⟩ := (returnPopsPc u s.atPhase2).1 hsp
  obtain ⟨t, hstep, hrun, hpc', ⟨hstack, hsp'⟩, -⟩ := step_of_completes hm hq hf hd hexec (hmode.trans hm)
  exact ⟨t, hstep, hrun, hpc' ▸ hpc, hsp' ▸ hpopped, hstack.trans hkept⟩

/-- Two steps in a row are a run of two. -/
theorem run_two {t u : State} (h : step s = .next t) (h' : step t = .next u) : Host.Core.run core 2 s = .next u :=
  (run_succ 1 h).trans (run_succ 0 h')

/-- Settles O41: the RET pops the slot that the CALL has just pushed. Between the two the host acts, with an input that does
not quit, and the RET is the word that lay at the target before the CALL, which writes no memory. -/
theorem callThenReturnRestoresPc : Obligations.CallThenReturnRestoresPc := by
  intro s nnn u input rest hm hq hqueue hinput hf htarget hsp hcall hret
  obtain ⟨t, hcallStep, htm, htpc, htsp, hslot, hmem, hcfg, htquit⟩ := step_of_call hm hq hf hcall hsp
  have hquit : t.quitIn = false := by rw [htquit, nextInput_of_queue hqueue, hinput]
  have hfetch : t.pc.toNat + 2 ≤ Config.memSize := by rwa [htpc]
  have hdecode : decode t.cfg t.fetchWord = .ok (.ret u) := by
    rw [State.fetchWord, htpc, hcfg, hmem, hmem, hret]
  obtain ⟨v, hretStep, hvm, hvpc, hvsp, hvstack⟩ := step_of_ret htm hquit hfetch hdecode (htsp ▸ Nat.succ_pos _)
  rw [htsp, Nat.add_sub_cancel, hslot] at hvpc
  exact ⟨v, run_two hcallStep hretStep, (Option.some.inj hvpc).symm, Fin.ext (Nat.succ.inj (hvsp.trans htsp)),
    hvstack ▸ hslot, hvm⟩

end Sys2Proof.Machine

/-! ### The display

A draw that does not fault is one XOR of the bitmap with the pixels the sprite covers, and its flag one look at the bitmap
before. The rules on collisions and on drawing twice follow from these two. -/

namespace Sys2Proof.Machine

variable {s t u : State} {x y : Reg} {n : Nibble}

/-! ### The pixels a sprite covers -/

theorem wrapRow_eq_iff (y0 : Byte) (j : Nat) (r : Fin 32) : wrapRow y0 j = r ↔ (y0.toNat + j) % 32 = r.val :=
  Fin.ext_iff

theorem wrapColumn_eq_iff (x0 : Byte) (k : Nat) (c : Fin 64) :
    wrapColumn x0 k = c ↔ (x0.toNat + k) % 64 = c.val :=
  Fin.ext_iff

/-- R200, R201: the bytes that DRW reads, drawn at (V[x], V[y]), cover the sprite's pixels. -/
theorem rowsCover_readBytes_iff {r : Fin 32} {c : Fin 64} :
    rowsCover (s.reg x) (s.reg y) 0 (s.readBytes s.base n.toNat) r c = true ↔ SpriteCovers s x y n r c := by
  rw [rowsCover_iff]
  constructor
  · rintro ⟨j, hj, k, hk, hbit, hrow, hcolumn⟩
    rw [State.getElem_readBytes] at hbit
    exact ⟨j, k, by simpa using hj, hk, hbit, by simpa [wrapRow_eq_iff] using hrow, (wrapColumn_eq_iff ..).1 hcolumn⟩
  · rintro ⟨j, k, hj, hk, hbit, hrow, hcolumn⟩
    refine ⟨j, by simpa using hj, k, hk, ?_, by simpa [wrapRow_eq_iff] using hrow, (wrapColumn_eq_iff ..).2 hcolumn⟩
    rwa [State.getElem_readBytes]

/-- What a sprite covers hangs on memory, I and the two coordinates alone. -/
theorem spriteCovers_congr (hi : t.i = s.i) (hmem : SameMemory s t) (hx : t.reg x = s.reg x) (hy : t.reg y = s.reg y)
    (r : Fin 32) (c : Fin 64) : SpriteCovers t x y n r c ↔ SpriteCovers s x y n r c := by
  simp only [SpriteCovers, hi, hmem _, hx, hy]

/-- A sprite has at most 15 rows, so none comes back to its own first row. -/
theorem length_readBytes_nibble_le (s : State) (a : Nat) (n : Nibble) : (s.readBytes a n.toNat).length ≤ 32 := by
  have := n.isLt
  rw [State.length_readBytes]
  omega

theorem display_ext {d d' : Display} (h : ∀ (r : Fin 32) (c : Fin 64), d[r][c] = d'[r][c]) : d = d' :=
  Vector.ext fun r hr => Vector.ext fun c hc => h ⟨r, hr⟩ ⟨c, hc⟩

/-! ### What a draw leaves -/

/-- R200, R201: a draw in range toggles the pixels its sprite covers and keeps the others. -/
theorem exec_drw_pixel (hrange : DrawInRange s n) (hexec : exec (.drw x y n) s = .next t) (r : Fin 32) (c : Fin 64) :
    (SpriteCovers s x y n r c → t.pixel r c = !s.pixel r c) ∧ (¬ SpriteCovers s x y n r c → t.pixel r c = s.pixel r c) := by
  have hxor : t.pixel r c =
      (s.pixel r c ^^ rowsCover (s.reg x) (s.reg y) 0 (s.readBytes s.base n.toNat) r c) := by
    cases (exec_drw_draw s x y n (drawInRange_iff.1 hrange)).symm.trans hexec
    exact blit_disp _ _ _ s.disp (length_readBytes_nibble_le s s.base n) r c
  rw [← rowsCover_readBytes_iff, hxor]
  exact ⟨fun hcover => by simp [hcover], fun hcover => by simp [hcover]⟩

theorem flagByte_eq_zero_iff (f : Bool) : flagByte f = 0 ↔ f = false := by cases f <;> decide

/-- R202: the flag of a draw in range is whether its sprite covers a pixel that was set. -/
theorem exec_drw_flag (hrange : DrawInRange s n) (hexec : exec (.drw x y n) s = .next t) :
    ∃ f, t.reg Reg.vF = flagByte f ∧ (f = true ↔ ∃ r c, SpriteCovers s x y n r c ∧ s.pixel r c = true) := by
  cases (exec_drw_draw s x y n (drawInRange_iff.1 hrange)).symm.trans hexec
  refine ⟨_, State.reg_setReg_same _ _ _, ?_⟩
  rw [blit_collision _ _ _ _ (length_readBytes_nibble_le s s.base n)]
  simp only [rowsCover_readBytes_iff, State.pixel]

theorem exec_drw_flag_eq_one_iff (hrange : DrawInRange s n) (hexec : exec (.drw x y n) s = .next t) :
    t.reg Reg.vF = 1 ↔ ∃ r c, SpriteCovers s x y n r c ∧ s.pixel r c = true := by
  obtain ⟨f, hflag, hcollides⟩ := exec_drw_flag hrange hexec
  rw [hflag, flagByte_eq_one_iff, hcollides]

theorem exec_drw_flag_eq_zero_iff (hrange : DrawInRange s n) (hexec : exec (.drw x y n) s = .next t) :
    t.reg Reg.vF = 0 ↔ ∀ r c, SpriteCovers s x y n r c → s.pixel r c = false := by
  obtain ⟨f, hflag, hcollides⟩ := exec_drw_flag hrange hexec
  rw [hflag, flagByte_eq_zero_iff, ← Bool.not_eq_true, hcollides]
  simp

/-! ### The obligations on DRW -/

/-- Settles O45: the draw is an XOR with the covered pixels. -/
theorem drawTogglesCoveredPixelsOnTheTorus : Obligations.DrawTogglesCoveredPixelsOnTheTorus := by
  intro x y n s hrange
  have hexec := exec_drw_draw s x y n (drawInRange_iff.1 hrange)
  exact ⟨_, hexec, exec_drw_pixel hrange hexec⟩

/-- Settles O46: a pixel is unset by the draw exactly where the sprite covers one that was set. -/
theorem drawReportsCollision : Obligations.DrawReportsCollision := by
  intro x y n s t hrange hexec
  have hpixel := exec_drw_pixel hrange hexec
  rw [exec_drw_flag_eq_one_iff hrange hexec, exec_drw_flag_eq_zero_iff hrange hexec]
  refine ⟨?_, fun hkept r c hcover => ?_⟩
  · rintro ⟨r, c, hset, hunset⟩
    refine ⟨r, c, by_contra fun hcover => ?_, hset⟩
    simp [(hpixel r c).2 hcover, hset] at hunset
  · by_contra hset
    rw [Bool.not_eq_false] at hset
    simpa [hset, hkept r c hset] using (hpixel r c).1 hcover

/-- Settles O47: in range, the display and the flag are written and PC advances; past the end of memory the cause table
raises. -/
theorem drawFrame : Obligations.DrawFrame := by
  refine fun x y n s => ⟨fun hrange => ?_, fun hpast => ?_⟩
  · refine ⟨_, exec_drw_draw s x y n (drawInRange_iff.1 hrange), rfl, rfl, rfl, fun z hz => ?_, ?_⟩
    · simp [Ne.symm (List.ne_of_not_mem_cons hz)]
    · refine ⟨fun _ => rfl, rfl, ⟨rfl, rfl⟩, ⟨rfl, rfl⟩, by simp [SameHost], ?_⟩
      rintro rfl
      exact ⟨rfl, by simp [State.readBytes, blit, blitRows, flagByte]⟩
  · exact exec_result_of_errorOf_some (if_pos ⟨fun hn => hpast (.inl hn), not_le.1 fun hle => hpast (.inr hle)⟩)

/-- Settles O48: the two draws cover the same pixels, and toggling them twice is the identity; the second collides where the
first set a pixel. -/
theorem drawTwiceRestoresTheBitmap : Obligations.DrawTwiceRestoresTheBitmap := by
  intro x y n s t u v hx hy hrange hfirst hdisp hi hmem hux huy hsecond
  obtain ⟨t', hfirst', -, -, -, hregs, hmem', hi', -⟩ := (drawFrame x y n s).1 hrange
  cases hfirst'.symm.trans hfirst
  have hcovers : ∀ r c, SpriteCovers u x y n r c ↔ SpriteCovers s x y n r c :=
    spriteCovers_congr (hi.trans hi') (fun a => (hmem a).trans (hmem' a)) (hux.trans (hregs x (by simpa using hx)))
      (huy.trans (hregs y (by simpa using hy)))
  have hrange' : DrawInRange u n := by rwa [DrawInRange, hi.trans hi']
  have hpixel : ∀ r c, u.pixel r c = t.pixel r c := fun r c => by rw [State.pixel, hdisp, State.pixel]
  have hflag : v.reg Reg.vF = 1 ↔ ∃ r c, SpriteCovers s x y n r c ∧ s.pixel r c = false := by
    rw [exec_drw_flag_eq_one_iff hrange' hsecond]
    refine exists_congr fun r => exists_congr fun c => (and_congr_left' (hcovers r c)).trans ?_
    refine and_congr_right fun hcover => ?_
    rw [hpixel, (exec_drw_pixel hrange hfirst r c).1 hcover, Bool.not_eq_true']
  refine ⟨display_ext fun r c => ?_, hflag, fun hzero => ?_⟩
  · obtain ⟨htoggled, hkept⟩ := exec_drw_pixel hrange hfirst r c
    obtain ⟨htoggled', hkept'⟩ := exec_drw_pixel hrange' hsecond r c
    rw [hcovers, hpixel] at htoggled' hkept'
    change v.pixel r c = s.pixel r c
    by_cases hcover : SpriteCovers s x y n r c
    · rw [htoggled' hcover, htoggled hcover, Bool.not_not]
    · rw [hkept' hcover, hkept hcover]
  · rw [exec_drw_flag_eq_zero_iff hrange hfirst] at hzero
    rw [hflag]
    exact exists_congr fun r => exists_congr fun c => and_iff_left_of_imp (hzero r c)

/-! ### CLS -/

/-- R77, R83 (D6): without `CLS_PRESENT` the word of CLS is in the list of illegal words. -/
theorem illegalWord_encode_cls {cfg : Config} (h : cfg.clsPresent = false) (u : Nibble) :
    IllegalWord cfg (encode (.cls u)) := by
  obtain ⟨hclass, hkk⟩ := (matchesWord_byByte_iff _ _).1 (Laws.FixedBits.all (.cls u)).1
  exact illegalWord_iff.2 (.inl ⟨hclass, by simp [hkk], by simp [h]⟩)

/-- Settles O49: the blank bitmap and the advance; the decoder alone looks at `CLS_PRESENT`. -/
theorem clearScreenResult : Obligations.ClearScreenResult := by
  refine fun u s => ⟨?_, decode_encode (i := .cls u), fun habsent => ?_⟩
  · refine ⟨_, rfl, getElem_blank, rfl, rfl, rfl, ?_⟩
    simp [SameRegs, SameMemory, SameIndex, SameStack, SameTimers, SameHost]
  · exact decode_eq_error_iff.2 ⟨rfl, illegalWord_encode_cls habsent u⟩

end Sys2Proof.Machine

/-! ### Timers and keys

A wait for a key is a run of steps that end alike (`step_of_ldVxK_no_key`, `step_of_no_key`): the latch is refreshed, the host
presents its next input, and the program state stands still. The wait of any length is an induction on its polls. -/

namespace Sys2Proof.Machine

variable {i : Instr} {s t u : State} {x : Reg} {k : Fin 16}

/-! ### The latch -/

@[simp] theorem finishCycle_key (s : State) : s.finishCycle.key = s.key := by
  unfold State.finishCycle; split <;> rfl

/-- R240: a step without quit leaves the latch that its key refresh has read. -/
theorem step_key (h : step s = .next t) (hq : s.quitIn = false) : t.key = s.keysIn := by
  obtain ⟨u, rfl, hu⟩ := step_cases h
  rcases hu with ⟨hquit, -⟩ | ⟨-, -, v, hv, rfl⟩ | ⟨-, x, k, -, -, rfl⟩ | ⟨-, x, -, -, rfl⟩
  · simp [hq] at hquit
  · obtain ⟨hkey, -⟩ := execute_sameHost hv
    simp [hkey]
  · rfl
  · rfl

/-- R107: a step with quit refreshes nothing. -/
theorem step_key_of_quit (h : step s = .next t) (hq : s.quitIn = true) : t.key = s.key := by
  obtain ⟨u, rfl, hu⟩ := step_cases h
  rcases hu with ⟨-, -, rfl⟩ | ⟨hquit, -⟩ | ⟨hquit, -⟩ | ⟨hquit, -⟩
  · rfl
  all_goals simp [hq] at hquit

/-- Settles O11: the latch is written by the key refresh, which a quit comes before, and by no instruction. -/
theorem keyLatchChangesOnlyByRefresh : Obligations.KeyLatchChangesOnlyByRefresh :=
  ⟨fun _ _ => step_key, fun _ _ => step_key_of_quit, fun _ _ _ h => (exec_sameHost h).1⟩

/-- R242: `k` is the key a search finds when it is down and no key below it is. -/
theorem lowestKey_of_least (hdown : s.key.getLsbD k.val = true) (hleast : ∀ j : Fin 16, j < k → s.key.getLsbD j.val = false) :
    s.lowestKey = some k :=
  (lowestKey_eq_some_iff s k).2 ⟨hdown, hleast⟩

/-! ### The timer instructions and LD Vx, K -/

/-- Settles O50: each is one write, of a register or of a timer, and the advance. -/
theorem timerInstructionsResult : Obligations.TimerInstructionsResult := by
  refine fun x s => ⟨exec_result_of_setReg rfl, ⟨_, rfl, rfl, rfl, rfl, rfl, ?_⟩, ⟨_, rfl, rfl, rfl, rfl, rfl, ?_⟩⟩
  all_goals simp [SameRegs, SameMemory, SameIndex, SameStack, SameDisplay, SameHost]

/-- Settles O51: the search of the latch finds the lowest key, or none when the latch is 0. -/
theorem waitForKeyResult : Obligations.WaitForKeyResult := by
  refine fun x s => ⟨fun k hdown hleast => ?_, fun hnone => ?_⟩
  · obtain ⟨t, hexec, hreg, hpc, hframe⟩ :=
      exec_result_of_setReg (b := keyByte k) (exec_ldVxK_take s x k (lowestKey_of_least hdown hleast))
    exact ⟨t, hexec, by rw [hreg, keyByte_toNat], hpc, hframe⟩
  · exact ⟨_, exec_ldVxK_wait s x ((lowestKey_eq_none_iff_key s).2 hnone), rfl, onlyMode_awaitKey s x⟩

/-! ### The tick of the same cycle -/

/-- R101: a quiet outer cycle whose instruction completes is the instruction and phases 3 and 4. -/
theorem step_eq_endCycle (hm : s.mode = .running) (hq : s.quitIn = false) (hf : s.pc.toNat + 2 ≤ Config.memSize)
    (hd : decode s.cfg s.fetchWord = .ok i) (hexec : exec i s.atPhase2 = .next u) (hu : u.mode = .running) :
    step s = .next u.endCycle.hostActs := by
  rw [step_of_execute hm hq ((execute_of_decode (s := s.atPhase2) hf hd).trans hexec), finishCycle_running hu]

/-- Settles O52: the tick that ends the cycle finds in the timer what the instruction wrote. -/
theorem timerWriteTicksInTheSameCycle : Obligations.TimerWriteTicksInTheSameCycle := by
  refine fun s x hm hq hf => ⟨fun hd => ?_, fun hd => ?_⟩
  · obtain ⟨hdt, -⟩ := endCycle_timers (s.atPhase2.setDT (s.reg x)).advance
    exact ⟨_, step_eq_endCycle hm hq hf hd rfl hm, hdt, rfl⟩
  · obtain ⟨-, hst, hsound⟩ := endCycle_timers (s.atPhase2.setST (s.reg x)).advance
    exact ⟨_, step_eq_endCycle hm hq hf hd rfl hm, hst, hsound, rfl⟩

/-! ### The wait iteration -/

theorem lowestKey_atPhase2_of_no_key (h : s.keysIn = 0) : s.atPhase2.lowestKey = none :=
  (lowestKey_eq_none_iff_key s.atPhase2).2 h

/-- Settles O53: without a key the wait iteration is the key refresh alone; with one it is the end of the Fx0A and of its
cycle. -/
theorem waitIterationResult : Obligations.WaitIterationResult := by
  refine fun s x hm hq => ⟨fun hnone => ?_, fun k hdown hleast => ?_⟩
  · refine ⟨_, step_of_no_key hm hq (lowestKey_atPhase2_of_no_key hnone), hm, hnone, ?_, rfl, rfl⟩
    exact ⟨fun _ _ => rfl, fun _ => rfl, rfl, ⟨rfl, rfl⟩, ⟨rfl, rfl⟩, ⟨rfl, rfl⟩, rfl, rfl⟩
  · obtain ⟨hdt, hst, hsound⟩ := endCycle_timers (s.atPhase2.takeKey x k).resume
    obtain ⟨hregs, hmem, hindex, hstack, -, ⟨hdisp, -⟩, -⟩ := onlyRegs_setReg s.atPhase2 x (keyByte k)
    exact ⟨_, step_of_key hm hq (lowestKey_of_least (s := s.atPhase2) hdown hleast), rfl, rfl, by simp, hregs, rfl, hdt, hst,
      hsound, rfl, rfl, hmem, hindex, hstack, hdisp⟩

/-! ### A wait of any length -/

/-- R247: from `s` the core has come to wait for a key, with PC, the timers and the registers of `s`. -/
def WaitsSince (x : Reg) (s t : State) : Prop :=
  t.mode = .awaitingKey x ∧ t.pc = s.pc ∧ SameTimers s t ∧ SameRegs [] s t

/-- The host presents `input` at the next step, and the inputs of `queue` at those after it. -/
def State.Presents (s : State) (input : HostInput) (queue : List HostInput) : Prop :=
  s.keysIn = input.keys ∧ s.quitIn = input.quit ∧ s.hostQueue = queue

theorem hostActs_presents {input : HostInput} {queue : List HostInput} (hq : s.quitIn = false)
    (h : s.hostQueue = input :: queue) : s.hostActs.Presents input queue := by
  simp [State.Presents, hq, h, nextInput_of_queue h]

/-- R241: an Fx0A that finds no key begins a wait. -/
theorem step_begins_wait {input : HostInput} {queue : List HostInput} (hm : s.mode = .running) (hq : s.quitIn = false)
    (hkeys : s.keysIn = 0) (hf : s.pc.toNat + 2 ≤ Config.memSize) (hd : decode s.cfg s.fetchWord = .ok (.ldVxK x))
    (hqueue : s.hostQueue = input :: queue) : ∃ t, step s = .next t ∧ WaitsSince x s t ∧ t.Presents input queue := by
  have hexec : execute s.atPhase2 = .next (s.atPhase2.awaitKey x) :=
    (execute_of_decode (s := s.atPhase2) hf hd).trans (exec_ldVxK_wait _ x (lowestKey_atPhase2_of_no_key hkeys))
  exact ⟨_, step_of_execute hm hq hexec, ⟨rfl, rfl, ⟨rfl, rfl⟩, fun _ _ => rfl⟩, hostActs_presents hq hqueue⟩

/-- R243: a poll that finds no key goes on with the wait. -/
theorem step_continues_wait {input : HostInput} {queue : List HostInput} (hwait : WaitsSince x s t)
    (hq : t.quitIn = false) (hkeys : t.keysIn = 0) (hqueue : t.hostQueue = input :: queue) :
    ∃ u, step t = .next u ∧ WaitsSince x s u ∧ u.Presents input queue :=
  ⟨_, step_of_no_key hwait.1 hq (lowestKey_atPhase2_of_no_key hkeys), hwait, hostActs_presents hq hqueue⟩

/-- A run and the step after it. -/
theorem run_succ_last {n : Nat} (h : Host.Core.run core n s = .next t) (h' : step t = .next u) :
    Host.Core.run core (n + 1) s = .next u := by
  induction n generalizing s with
  | zero => cases h; exact run_succ 0 h'
  | succ n ih =>
    cases hs : step s with
    | next v =>
      rw [run_succ n hs] at h
      rw [run_succ (n + 1) hs, ih h]
    | fault r => simp [Host.Core.run, core, hs] at h
    | refused r => simp [Host.Core.run, core, hs] at h

/-- R247: an Fx0A that finds no key, and then any number of polls that find none, hold the wait. -/
theorem run_holds_wait {polls queue : List HostInput} {input : HostInput} (hm : s.mode = .running) (hq : s.quitIn = false)
    (hkeys : s.keysIn = 0) (hf : s.pc.toNat + 2 ≤ Config.memSize) (hd : decode s.cfg s.fetchWord = .ok (.ldVxK x))
    (hqueue : s.hostQueue = polls ++ input :: queue) (hpolls : ∀ p ∈ polls, p.keys = 0 ∧ p.quit = false) :
    ∃ t, Host.Core.run core (polls.length + 1) s = .next t ∧ WaitsSince x s t ∧ t.Presents input queue := by
  induction polls using List.reverseRecOn generalizing input queue with
  | nil =>
    obtain ⟨t, hstep, hwait⟩ := step_begins_wait hm hq hkeys hf hd hqueue
    exact ⟨t, run_succ 0 hstep, hwait⟩
  | append_singleton polls p ih =>
    rw [List.append_assoc, List.singleton_append] at hqueue
    obtain ⟨t, hrun, hwait, htkeys, htquit, htqueue⟩ := ih hqueue fun p' hp' => hpolls p' (List.mem_append_left _ hp')
    obtain ⟨hpkeys, hpquit⟩ := hpolls p (by simp)
    obtain ⟨u, hstep, hwait'⟩ := step_continues_wait hwait (htquit.trans hpquit) (htkeys.trans hpkeys) htqueue
    rw [List.length_append, List.length_singleton]
    exact ⟨u, run_succ_last hrun hstep, hwait'⟩

/-- Settles O54: the first `m` polls hold the wait, whatever is presented after them; and the wait iteration that sees the last
input ends it. -/
theorem keyWaitScenario : Obligations.KeyWaitScenario := by
  intro s x polls last rest k hm hq hkeys hf hd hqueue hpolls hquit hdown hleast
  refine ⟨fun m hle => ?_, ?_⟩
  · obtain ⟨input, queue, hsplit⟩ : ∃ input queue, polls.drop m ++ last :: rest = input :: queue :=
      List.exists_cons_of_ne_nil (by simp)
    rw [← List.take_append_drop m polls, List.append_assoc, hsplit] at hqueue
    obtain ⟨t, hrun, hwait, -⟩ :=
      run_holds_wait hm hq hkeys hf hd hqueue fun p hp => hpolls p (List.mem_of_mem_take hp)
    rw [List.length_take_of_le hle] at hrun
    exact ⟨t, hrun, hwait⟩
  · obtain ⟨t, hrun, ⟨htm, hpc, ⟨hdt, hst⟩, -⟩, htkeys, htquit, -⟩ := run_holds_wait hm hq hkeys hf hd hqueue hpolls
    rw [← htkeys] at hdown hleast
    obtain ⟨u, hstep, hum, -, hreg, -, hupc, hudt, hust, -⟩ :=
      (waitIterationResult t x htm (htquit.trans hquit)).2 k hdown hleast
    exact ⟨u, run_succ_last hrun hstep, hum, by rw [hupc, hpc], hreg, by rw [hudt, hdt], by rw [hust, hst]⟩

end Sys2Proof.Machine

/-! ### Errors, by the cause table -/

namespace Sys2Proof.Machine

/-- Settles O19: an instruction with a cause enters `Halted` with the table's record and no other; one without a cause stays in
`Running` or waits. -/
theorem instructionsRaiseByTheCauseTable : Obligations.InstructionsRaiseByTheCauseTable := by
  intro i s t hrun hexec e
  rcases exec_cases hexec with ⟨k, n, hcause, rfl⟩ | ⟨hcause, hmode, -⟩ | ⟨hcause, x, -, -, rfl⟩
  · rw [State.halt_mode, Mode.halted.injEq, HaltReason.error.injEq]
    constructor
    · rintro rfl
      exact ⟨k, n, hcause, rfl⟩
    · rintro ⟨k', n', hcause', rfl⟩
      cases hcause.symm.trans hcause'
      rfl
  · simp [hcause, hmode, hrun]
  · simp [hcause]

end Sys2Proof.Machine

/-! ### Startup and the program load

Nothing is listed in memory at startup, so a byte reads as `initialByte`; the load is one block write at `PROG_BASE`, and the
laws of block writes say the rest. -/

namespace Sys2Proof.Machine

variable {s t : State} {program : List Byte}

/-! ### Startup -/

@[simp] theorem startup_readByte (cfg : Config) (a : Nat) : (State.startup cfg).readByte a = initialByte cfg a := rfl

@[simp] theorem startup_reg (cfg : Config) (x : Reg) : (State.startup cfg).reg x = 0 := Vector.getElem_replicate _

@[simp] theorem startup_stack (cfg : Config) (j : Nat) (h : j < 16) : (State.startup cfg).stack[j] = 0 :=
  Vector.getElem_replicate _

@[simp] theorem startup_pc (cfg : Config) : (State.startup cfg).pc = 0x200 := rfl

@[simp] theorem startup_pixel (cfg : Config) (r : Fin 32) (c : Fin 64) : (State.startup cfg).pixel r c = false := by
  simp [State.pixel, State.startup]

/-- Settles O55: memory reads as the font at `FONT_BASE` and 0 elsewhere; the arrays are replicated zeros, and the other fields
are what `State.startup` writes down. -/
theorem startupState : Obligations.StartupState :=
  ⟨rfl, fun cfg => ⟨fun a _ => (startup_readByte cfg _).trans (initialByte_font cfg a),
    fun a ha => (startup_readByte cfg a).trans (initialByte_outside cfg a ha), startup_reg cfg,
    fun j => startup_stack cfg j.val j.isLt, rfl, startup_pc cfg, rfl, rfl, rfl, startup_pixel cfg, rfl, rfl, rfl⟩⟩

theorem startup_inv (cfg : Config) : (State.startup cfg).Inv := by
  have hmem : Memory.wf (State.startup cfg).cfg (State.startup cfg).mem := ⟨List.Pairwise.nil, nofun⟩
  exact State.Inv.of_not_waiting hmem (by simp) (by simp) rfl nofun

/-! ### The program load -/

theorem loadProgram_of_fits (h : program.length ≤ Config.progMax) (s : State) :
    loadProgram program s = .next (s.writeBytes Config.progBase program) := if_pos h

theorem loadProgram_of_too_long (h : Config.progMax < program.length) (s : State) :
    loadProgram program s = .refused (.loadError program.length) := if_neg (not_le.2 h)

/-- R293: a load that succeeds is the block write of a program that fits. -/
theorem loadProgram_eq_next_iff :
    loadProgram program s = .next t ↔ program.length ≤ Config.progMax ∧ s.writeBytes Config.progBase program = t := by
  by_cases h : program.length ≤ Config.progMax
  · simp [loadProgram_of_fits h, h]
  · simp [loadProgram_of_too_long (not_le.1 h), h]

/-- A program that fits ends inside memory, so its load keeps the canonical form; the invariant's other parts are about fields
the load leaves alone, and no program is loaded into a wait. -/
theorem State.Inv.loadProgram (hs : s.Inv) (hm : ∀ x, s.mode ≠ .awaitingKey x) (h : loadProgram program s = .next t) :
    t.Inv := by
  obtain ⟨hfits, rfl⟩ := loadProgram_eq_next_iff.1 h
  have hend : Config.progBase + program.length ≤ Config.memSize := Nat.add_le_add_left hfits Config.progBase
  refine State.Inv.of_not_waiting (s.writeBytes_wf _ _ hs.memory hend) ?_ ?_ ?_ ?_
  · simpa using hs.pc_bound
  · simpa using hs.return_bound
  · simpa using hs.clean
  · simpa using hm

/-- Settles O15: startup meets the invariant in every configuration, and the load of a program keeps it. -/
theorem startupMeetsInvariant : Obligations.StartupMeetsInvariant :=
  ⟨startup_inv Config.standard, fun cfg _ _ h => (startup_inv cfg).loadProgram nofun h⟩

/-- Settles O56: the load of a program that fits is one block write, which puts byte `j` at `0x200 + j` and touches nothing
else. -/
theorem programLoadResult : Obligations.ProgramLoadResult := by
  refine fun program s => ⟨fun hfits => ?_, fun hlong => loadProgram_of_too_long hlong s⟩
  refine ⟨_, loadProgram_of_fits hfits s, fun j => s.readByte_writeBytes_at _ j program,
    fun a => s.readByte_writeBytes_outside _ a program, ?_⟩
  simp [SameRegs, SameIndex, SameStack, SameTimers, SameDisplay, SameHost]

end Sys2Proof.Machine
